-- ==== Sys2Proof/Word.lean ====
section
/-! DEFINITION. The widths of the block's values (00_scope.md R5, R7; 10_state.md R10). -/

namespace Sys2Proof

/-- One byte of a frame, or a command opcode (R19, R61). -/
abbrev Byte := BitVec 8

/-- A host register: every register of the window is 32 bits wide (R28 to R37, R43). -/
abbrev Word := BitVec 32

/-- A pulse count: an unsigned 64-bit count of polling cycles (R15, R18, R70). -/
abbrev Count := BitVec 64

/-- A byte offset into the host register window, 0x000 to 0xFFF (R40). -/
abbrev Offset := BitVec 12

end Sys2Proof
end

