-- ==== Sys2Proof/Syntax.lean ====
section
/-! DEFINITION. The instructions (one constructor per row of the opcode table), the three places an encoded
instruction stands in, and the atomic steps of the agents around the engine. -/

namespace Sys2Proof

/-- The rows of spec/opcode_table.json: five host commands and the close request, and the twelve phases of the
sequencer's fixed program. None has an operand (30_encoding.md R61, R62, R64, R65). -/
inductive Instr where
  | cap
  | capF
  | rdt
  | rdh
  | rdb
  | close
  | idle
  | stab
  | wakeLo
  | wakeHi
  | release
  | ackLo
  | ackHi
  | bitLo
  | bitHi
  | assemble
  | commit
  | respond
  deriving DecidableEq, Repr, Inhabited

/-- An encoded instruction together with the place it stands in (R60): what the bits mean depends on the place. -/
inductive FetchWord where
  /-- Format CMD8: the low byte of a word the host writes to `CMD` (R61). -/
  | cmd (op : Byte)
  /-- Format CTRL1: bit 0 of a word the host writes to `CTRL` (R64). -/
  | ctrl (b : BitVec 1)
  /-- Format PHASE4: the contents of the `PHASE` register (R65). -/
  | phase (code : BitVec 4)
  deriving DecidableEq, Repr, Inhabited

/-- D0's `SensorVariant`, the three values the strap may have (R1, R26, R67). -/
inductive SensorVariant where
  | type11
  | type21
  | type22
  deriving DecidableEq, Repr, Inhabited

/-- How wide a host access is. Only the word is part of the interface (20_memory.md R46). -/
inductive AccessSize where
  | byte
  | half
  | word
  deriving DecidableEq, Repr, Inhabited

/-- A host access to the register window: `RegRead` and `RegWrite` (R44, R45). -/
inductive HostAccess where
  | read (size : AccessSize) (addr : Offset)
  | write (size : AccessSize) (addr : Offset) (v : Word)
  deriving DecidableEq, Repr, Inhabited

/-- One atomic step of one of the agents of R6. -/
inductive Event where
  /-- The engine takes its next step. -/
  | engine
  /-- The host performs one access. -/
  | host (a : HostAccess)
  /-- The environment lets time pass, in microseconds (R17). -/
  | tick (us : Nat)
  /-- The environment puts a level on `line_in` (R80, R83). -/
  | line (level : Bool)
  /-- The platform drives `line_fault` (R80, R85). -/
  | fault (asserted : Bool)
  /-- `rst` is 1 with this value on the strap: it is asserted, or held while the strap is sampled again (R80, R210,
  R211, log 17). -/
  | reset (strap : BitVec 2)
  /-- `rst` is released: it is 0 again (R80, R210). -/
  | release
  deriving DecidableEq, Repr, Inhabited

end Sys2Proof
end

