-- ==== Sys2Proof/Config.lean ====
section
/-! DEFINITION. What an instance or its surroundings fix and the spec leaves OPEN. Each is a constant without a
body, so nothing can be proved about its value; the one that has a body is the rendering, whose default the spec
states. -/

namespace Sys2Proof

/-- `MAX_CYCLES` of the instance `State.reset` describes: OPEN (00_scope.md R5, 10_state.md R27, log 4). -/
opaque Config.maxCycles : Count

/-- `T_POLL` of that instance in nanoseconds, less one, so that the duration is greater than 0
(00_scope.md R5, 40_line_and_timer.md R93, logs 4 and 5). -/
opaque Config.tPollNsLessOne : Nat

/-- `IO_FAULT_POSSIBLE` of that instance: OPEN (00_scope.md R5, 93_implementation_defined.md U10, log 4). -/
opaque Config.ioFaultPossible : Bool

/-- How an instance renders a magnitude in tenths as a binary32 number (43_frame_decoder.md R147,
93_implementation_defined.md U16): correctly rounded, the default, or by a rendering function of its own. -/
inductive Rendering where
  | correctlyRounded
  /-- The `n`-th of the functions `Config.suppliedMagnitude` stands for. -/
  | supplied (n : Nat)
  deriving DecidableEq, Repr, Inhabited

/-- The rendering of that instance: U16's default. -/
def Config.rendering : Rendering := .correctlyRounded

/-- The rendering functions an instance may supply: the 31 bits below the sign for a magnitude that is not 0. OPEN
(U16, log 18): nothing is known of them. -/
opaque Config.suppliedMagnitude : Nat → BitVec 16 → BitVec 31

/-- The strap `variant[1:0]` of that instance, one of the three legal values (10_state.md R26, log 10). -/
opaque Config.strap : SensorVariant

/-- FREE VALUE: what happens next when `inputs` lists nothing: any event of any agent (00_scope.md R6,
20_memory.md R51, log 2). -/
opaque Config.freeEvent : Nat → Event

end Sys2Proof
end

