-- ==== Sys2Proof/WellFormed.lean ====
section
/-! DEFINITION. Which encoded words are instructions, which host accesses exist, and which straps are legal.
An `Instr` itself has no operand (30_encoding.md R61), so there is nothing to check in one. -/

namespace Sys2Proof

/-- An opcode is a command when bits 7:4 are 0 and it is either a capture (`C`, with or without `F`) or a
selection of result fields (`T`, `H` or both) without `C` and `F` (30_encoding.md R61, R63). -/
def Opcode.wf (op : Byte) : Bool :=
  op.extractLsb' 4 4 == 0#4 &&
    bif op.getLsbD 0 then !op.getLsbD 2 && !op.getLsbD 3
    else !op.getLsbD 1 && (op.getLsbD 2 || op.getLsbD 3)

/-- The encoded words that are instructions: a legal opcode (R63), a close request of 1 (R64), a phase code that
is not reserved (R65). -/
def FetchWord.wf : FetchWord → Bool
  | .cmd op => Opcode.wf op
  | .ctrl b => b == 1#1
  | .phase code => decide (code.toNat < 12)

/-- A byte offset is aligned when it is a multiple of 4 (20_memory.md R46). -/
def Offset.aligned (addr : Offset) : Bool :=
  addr.toNat % 4 == 0

/-- The only host access there is: an aligned 32-bit word (20_memory.md R46). -/
def HostAccess.wf : HostAccess → Bool
  | .read size addr => size == .word && Offset.aligned addr
  | .write size addr _ => size == .word && Offset.aligned addr

/-- An event the model has a step for: a host access that exists, and no reset with the reserved strap 3
(30_encoding.md R67, 93_implementation_defined.md U7). -/
def Event.wf : Event → Bool
  | .engine => true
  | .host a => a.wf
  | .tick _ => true
  | .line _ => true
  | .fault _ => true
  | .reset strap => strap != 3#2
  | .release => true

end Sys2Proof
end

