-- ==== Sys2Proof/Decode.lean ====
section
/-! DEFINITION. The decoder of the three formats, total and rejecting by name, and the encoder, both written from
the tables of 30_encoding.md (R62, R64, R65, R67). -/

namespace Sys2Proof

/-- Why a word is no instruction. -/
inductive DecodeError where
  /-- An opcode that is none of the five commands (R63). -/
  | illegalOpcode (op : Byte)
  /-- A `CTRL` write whose bit 0 is 0 (R64). -/
  | noOperation
  /-- A phase code 12 to 15 (R65). -/
  | reservedPhase (code : BitVec 4)
  deriving DecidableEq, Repr

/-- R62, R63: the match is on all 8 bits. -/
def decodeCmd (op : Byte) : Except DecodeError Instr :=
  match op.toNat with
  | 0x01 => .ok .cap
  | 0x03 => .ok .capF
  | 0x04 => .ok .rdt
  | 0x08 => .ok .rdh
  | 0x0C => .ok .rdb
  | _ => .error (.illegalOpcode op)

/-- R64. -/
def decodeCtrl (b : BitVec 1) : Except DecodeError Instr :=
  match b.toNat with
  | 1 => .ok .close
  | _ => .error .noOperation

/-- R65. -/
def decodePhase (code : BitVec 4) : Except DecodeError Instr :=
  match code.toNat with
  | 0 => .ok .idle
  | 1 => .ok .stab
  | 2 => .ok .wakeLo
  | 3 => .ok .wakeHi
  | 4 => .ok .release
  | 5 => .ok .ackLo
  | 6 => .ok .ackHi
  | 7 => .ok .bitLo
  | 8 => .ok .bitHi
  | 9 => .ok .assemble
  | 10 => .ok .commit
  | 11 => .ok .respond
  | _ => .error (.reservedPhase code)

/-- The decoder: the place says which format the bits are read in (R60). -/
def decode : FetchWord → Except DecodeError Instr
  | .cmd op => decodeCmd op
  | .ctrl b => decodeCtrl b
  | .phase code => decodePhase code

/-- The encoder: the one word that stands for an instruction (R62, R64, R65). -/
def encode : Instr → FetchWord
  | .cap => .cmd 0x01#8
  | .capF => .cmd 0x03#8
  | .rdt => .cmd 0x04#8
  | .rdh => .cmd 0x08#8
  | .rdb => .cmd 0x0C#8
  | .close => .ctrl 1#1
  | .idle => .phase 0#4
  | .stab => .phase 1#4
  | .wakeLo => .phase 2#4
  | .wakeHi => .phase 3#4
  | .release => .phase 4#4
  | .ackLo => .phase 5#4
  | .ackHi => .phase 6#4
  | .bitLo => .phase 7#4
  | .bitHi => .phase 8#4
  | .assemble => .phase 9#4
  | .commit => .phase 10#4
  | .respond => .phase 11#4

/-- The five host commands (R62). -/
def Instr.isCommand : Instr → Bool
  | .cap | .capF | .rdt | .rdh | .rdb => true
  | .close | .idle | .stab | .wakeLo | .wakeHi | .release | .ackLo | .ackHi | .bitLo | .bitHi | .assemble
  | .commit | .respond => false

/-! The codes of `PHASE` by name (R65). -/

@[simp] abbrev phIdle : BitVec 4 := 0#4
@[simp] abbrev phStab : BitVec 4 := 1#4
@[simp] abbrev phWakeLo : BitVec 4 := 2#4
@[simp] abbrev phWakeHi : BitVec 4 := 3#4
@[simp] abbrev phRelease : BitVec 4 := 4#4
@[simp] abbrev phAckLo : BitVec 4 := 5#4
@[simp] abbrev phAckHi : BitVec 4 := 6#4
@[simp] abbrev phBitLo : BitVec 4 := 7#4
@[simp] abbrev phBitHi : BitVec 4 := 8#4
@[simp] abbrev phAssemble : BitVec 4 := 9#4
@[simp] abbrev phCommit : BitVec 4 := 10#4
@[simp] abbrev phRespond : BitVec 4 := 11#4

/-- R67. -/
def variantCode : SensorVariant → BitVec 2
  | .type11 => 0#2
  | .type21 => 1#2
  | .type22 => 2#2

/-- R67: code 3 is reserved. -/
def variantOfCode (code : BitVec 2) : Option SensorVariant :=
  match code.toNat with
  | 0 => some .type11
  | 1 => some .type21
  | 2 => some .type22
  | _ => none

/-- The place a word of the opcode table stands in. The table's words of different rows are the same number (1 is
CAP, CLOSE and STAB), and a bare number does not say the place, so it is read in this order (log 8): one bit is a
CTRL word, up to four bits are a PHASE code, and anything wider is a CMD word when it is a command, else the PHASE
code it is when it is one, else a CMD word, which the decoder rejects. -/
def tableWord (nbits w : Nat) : FetchWord :=
  if nbits ≤ 1 then .ctrl (BitVec.ofNat 1 w)
  else if nbits ≤ 4 then .phase (BitVec.ofNat 4 w)
  else if Opcode.wf (BitVec.ofNat 8 w) then .cmd (BitVec.ofNat 8 w)
  else if w < 12 then .phase (BitVec.ofNat 4 w)
  else .cmd (BitVec.ofNat 8 w)

/-- The instruction the decoder reads from a word of the opcode table. -/
def decodeTableWord (nbits w : Nat) : Option Instr :=
  match decode (tableWord nbits w) with
  | .ok i => some i
  | .error _ => none

end Sys2Proof
end

