-- ==== Sys2Proof/Machine/State.lean ====
section
/-! DEFINITION. Everything the spec gives the block (10_state.md R10), its ports (40_line_and_timer.md R80), the
parameters of the instance (00_scope.md R5), and the model's own three fields; the reasons a step can stop; reset. -/

namespace Sys2Proof.Machine

/-- The direction latch of the pad (R14). -/
inductive Dir where
  | input
  | output
  deriving DecidableEq, Repr

/-- The failure kinds kept in `TXF.kind` and `CR.fkind` (30_encoding.md R74). -/
inductive FailKind where
  | none
  | timeoutAck
  | timeoutBit
  | checksumMismatch
  deriving DecidableEq, Repr

/-- The outcome of a command (30_encoding.md R66). -/
inductive Result where
  | none
  | ok
  | timeoutAck
  | timeoutBit
  | checksumMismatch
  | ioError
  | closedDriver
  | illegalCommand
  deriving DecidableEq, Repr

/-- D0's RawFrame: five bytes (R19). -/
structure Frame where
  b0 : Byte
  b1 : Byte
  b2 : Byte
  b3 : Byte
  b4 : Byte
  deriving DecidableEq, Repr

/-- `TXF`, the failure of the transaction in progress (R20). -/
structure Txf where
  kind : FailKind
  idx : BitVec 6
  deriving DecidableEq, Repr

/-- `CR`, D0's CachedReading (R21). `tsv = false` is "stale". -/
structure CachedReading where
  tsv : Bool
  ts : Nat
  ok : Bool
  frame : BitVec 40
  fkind : FailKind
  fidx : BitVec 6
  deriving DecidableEq, Repr

/-- `RES_HUM` (R24). -/
structure ResHum where
  hv : Bool
  x10 : BitVec 16
  deriving DecidableEq, Repr

/-- `RES_TEMP` (R24); `x10` is two's complement. -/
structure ResTemp where
  tv : Bool
  tneg : Bool
  x10 : BitVec 16
  deriving DecidableEq, Repr

/-- The parameters of the instance that a rule reads: the OPEN ones of 00_scope.md R5, and the rendering function of
43_frame_decoder.md R147 (93_implementation_defined.md U16). No step writes them. -/
structure Params where
  maxCycles : Count
  tPollNs : Nat
  ioFaultPossible : Bool
  rendering : Rendering
  deriving DecidableEq, Repr

/-- The state. The fields down to `variant` are the block's own (R10), then the ports (R80), the parameters (R5),
and the model's own fields (logs 1, 2, 5). -/
structure State where
  /-- R11 -/
  phase : BitVec 4
  /-- R12 -/
  idx : BitVec 6
  /-- R13 -/
  cmdl : Byte
  /-- R14 -/
  lineDir : Dir
  /-- R14 -/
  lineLvl : Bool
  /-- R15 -/
  ptCnt : Count
  /-- R16 -/
  tEnter : Nat
  /-- R17 -/
  now : Nat
  /-- R18 -/
  pm : Vector Count 80
  /-- R19 -/
  rf : Frame
  /-- R20 -/
  txf : Txf
  /-- R21 -/
  cr : CachedReading
  /-- R22 -/
  hit : Bool
  /-- R22 -/
  ovr : Bool
  /-- R22 -/
  closed : Bool
  /-- R23 -/
  result : Result
  /-- R23 -/
  index : BitVec 6
  /-- R24 -/
  resHum : ResHum
  /-- R24 -/
  resTemp : ResTemp
  /-- R26 -/
  variant : SensorVariant
  /-- Port `line_in`: the level on the pad now (R80). -/
  lineIn : Bool
  /-- Port `line_fault` (R80). -/
  lineFault : Bool
  /-- Port `rst`: reset is held (R80, R210). -/
  rst : Bool
  /-- Host bus: the word the last `RegRead` returned (R44, R80). -/
  hostData : Word
  /-- R5, R147 -/
  params : Params
  /-- Model's own: nanoseconds past the last whole microsecond of `now` (log 5). -/
  nowSub : Nat
  /-- Model's own: what the agents do next, oldest first (log 1). -/
  inputs : List Event
  /-- Model's own: the counter of the free event stream (log 2). -/
  freeIdx : Nat
  deriving DecidableEq, Repr

/-- The machine never stops with a fault: every failure of the spec is an outcome code and the block goes on
(60_exceptions.md R180, R191). So there is no reason to list (log 22). -/
inductive Fault where
  deriving DecidableEq, Repr

/-- Why a step has no meaning. -/
inductive Refusal where
  /-- Raised by an arm of `exec` whose instruction has no meaning yet. Safe: nothing is claimed of it. -/
  | notModelled (mnemonic : String)
  /-- Raised by the engine's fetch when `PHASE` holds 12 to 15, which no rule produces
  (93_implementation_defined.md U14: refuse). Safe. -/
  | reservedPhase (code : BitVec 4)
  /-- Raised by a reset with strap 3 (93_implementation_defined.md U7: refuse). Safe. -/
  | reservedVariant
  /-- Raised by a host access that is not an aligned word (20_memory.md R46: no step). Safe. -/
  | accessNotAlignedWord (size : AccessSize) (addr : Offset)
  deriving DecidableEq, Repr

/-- The all-zero RawFrame (R19). -/
def Frame.zero : Frame := { b0 := 0#8, b1 := 0#8, b2 := 0#8, b3 := 0#8, b4 := 0#8 }

/-- `TXF` with no failure (R20). -/
def Txf.clear : Txf := { kind := .none, idx := 0#6 }

/-- The stale cache: no time of an attempt, failure flag (R21, R39). -/
def CachedReading.stale : CachedReading :=
  { tsv := false, ts := 0, ok := false, frame := 0#40, fkind := .none, fidx := 0#6 }

/-- No humidity (R24). -/
def ResHum.clear : ResHum := { hv := false, x10 := 0#16 }

/-- No temperature (R24). -/
def ResTemp.clear : ResTemp := { tv := false, tneg := false, x10 := 0#16 }

/-- The capture buffer with every entry 0 (R18). -/
def pmZero : Vector Count 80 := Vector.replicate 80 0#64

/-- The machine after a reset with strap `v`, `rst` released (10_state.md R39, 70_reset_and_hazards.md R210): every
element of R10 at the value of R39's table. The ports and the model's own fields, which R39 does not name, are at the
values of logs 2, 5, 15, 16 and 17. -/
def State.afterReset (p : Params) (v : SensorVariant) : State where
  phase := phIdle
  idx := 0#6
  cmdl := 0#8
  lineDir := .input
  lineLvl := true
  ptCnt := 0#64
  tEnter := 0
  now := 0
  pm := pmZero
  rf := Frame.zero
  txf := Txf.clear
  cr := CachedReading.stale
  hit := false
  ovr := false
  closed := false
  result := .none
  index := 0#6
  resHum := ResHum.clear
  resTemp := ResTemp.clear
  variant := v
  lineIn := true
  lineFault := false
  rst := false
  hostData := 0#32
  params := p
  nowSub := 0
  inputs := []
  freeIdx := 0

/-- The machine right after reset. The strap and the parameters are the instance's (logs 4, 10 and 18). -/
def State.reset : State :=
  State.afterReset
    { maxCycles := Config.maxCycles
      tPollNs := Config.tPollNsLessOne + 1
      ioFaultPossible := Config.ioFaultPossible
      rendering := Config.rendering }
    Config.strap

end Sys2Proof.Machine
end

