-- ==== Sys2Proof/Machine/Flags.lean ====
section
/-! DEFINITION. The flags and codes the host sees (10_state.md R22, R23, R29 to R37; 30_encoding.md R66, R74), as
functions of the state. -/

namespace Sys2Proof.Machine

/-- `BUSY` is not state: it is `PHASE != IDLE` (R22). -/
def busy (s : State) : Bool := s.phase != phIdle

/-- The number of an outcome (R66). -/
def resultCode : Result → BitVec 3
  | .none => 0#3
  | .ok => 1#3
  | .timeoutAck => 2#3
  | .timeoutBit => 3#3
  | .checksumMismatch => 4#3
  | .ioError => 5#3
  | .closedDriver => 6#3
  | .illegalCommand => 7#3

/-- The number of a failure kind: the same numbers as R66 (R74). -/
def failCode : FailKind → BitVec 3
  | .none => 0#3
  | .timeoutAck => 2#3
  | .timeoutBit => 3#3
  | .checksumMismatch => 4#3

/-- `RESULT <- CR.fkind`: the outcome with the failure kind's number (R74, R160). -/
def resultOfFail : FailKind → Result
  | .none => .none
  | .timeoutAck => .timeoutAck
  | .timeoutBit => .timeoutBit
  | .checksumMismatch => .checksumMismatch

/-- One flag as a bit. -/
def bit (b : Bool) : BitVec 1 := BitVec.ofBool b

/-- `STATUS` (R29): bits 31:26 zero, `IDX`, `PHASE`, 15:14 zero, `INDEX`, 7 zero, `RESULT`, `CLOSED`, `OVR`, `HIT`,
`BUSY`. -/
def statusWord (s : State) : Word :=
  0#6 ++ s.idx ++ s.phase ++ 0#2 ++ s.index ++ 0#1 ++ resultCode s.result ++ bit s.closed ++ bit s.ovr ++ bit s.hit
    ++ bit (busy s)

/-- `CTRL` reads `CLOSED` in bit 0 (R30). -/
def ctrlWord (s : State) : Word := 0#31 ++ bit s.closed

/-- `CFG`: `VARIANT` in bits 1:0 (R31). -/
def cfgWord (s : State) : Word := 0#30 ++ variantCode s.variant

/-- `CACHE` (R34): `TSV`, `OK`, 3:2 zero, `FKIND`, 7 zero, `FIDX`, 31:14 zero. -/
def cacheWord (s : State) : Word :=
  0#18 ++ s.cr.fidx ++ 0#1 ++ failCode s.cr.fkind ++ 0#2 ++ bit s.cr.ok ++ bit s.cr.tsv

/-- `RES_HUM` (R35): `X10` in bits 15:0, `HV` in bit 31. -/
def resHumWord (r : ResHum) : Word := bit r.hv ++ 0#15 ++ r.x10

/-- `RES_TEMP` (R36): `X10` in bits 15:0, `TNEG` in bit 30, `TV` in bit 31. -/
def resTempWord (r : ResTemp) : Word := bit r.tv ++ bit r.tneg ++ 0#14 ++ r.x10

/-- Port `line_oe` (R14, R80). -/
def lineOe (s : State) : Bool := s.lineDir == .output

/-- Port `line_out` (R14, R80). -/
def lineOut (s : State) : Bool := s.lineLvl

end Sys2Proof.Machine
end

