-- ==== Sys2Proof/Machine/Operands.lean ====
section
/-! DEFINITION. The data path: the frame as a number (20_memory.md R41), bit decision, packing and checksum
(42_frame_assembly.md), conversion per variant (43_frame_decoder.md), the binary32 rendering (R147). -/

namespace Sys2Proof.Machine

/-- `F40 = b[0] ‖ b[1] ‖ b[2] ‖ b[3] ‖ b[4]` (R41). -/
def Frame.toF40 (f : Frame) : BitVec 40 := f.b0 ++ f.b1 ++ f.b2 ++ f.b3 ++ f.b4

/-- `b[j] = F40[39 − 8j : 32 − 8j]` (R41). -/
def frameOfF40 (n : BitVec 40) : Frame where
  b0 := n.extractLsb' 32 8
  b1 := n.extractLsb' 24 8
  b2 := n.extractLsb' 16 8
  b3 := n.extractLsb' 8 8
  b4 := n.extractLsb' 0 8

/-- Entry `PM[k]` (R18). The buffer has the entries 0 to 79 only; no rule reads another (log 13). -/
def pmEntry (pm : Vector Count 80) (k : Nat) : Count := pm[k]?.getD 0#64

/-- `PM[k] <- c` (R18). The buffer has the entries 0 to 79 only; writing another changes nothing (log 13). -/
def pmSet (pm : Vector Count 80) (k : Nat) (c : Count) : Vector Count 80 := pm.setIfInBounds k c

/-- R130: 1 exactly when the high count exceeds the low count, unsigned, on all 64 bits. -/
def frameBit (pm : Vector Count 80) (i : Nat) : Bool :=
  decide ((pmEntry pm (2 * i + 1)).toNat > (pmEntry pm (2 * i)).toNat)

/-- R131, one byte: most significant bit first. -/
def packByte (bits : Nat → Bool) (j : Nat) : Byte :=
  BitVec.ofNat 8
    ((bits (8 * j)).toNat * 128 + (bits (8 * j + 1)).toNat * 64 + (bits (8 * j + 2)).toNat * 32
      + (bits (8 * j + 3)).toNat * 16 + (bits (8 * j + 4)).toNat * 8 + (bits (8 * j + 5)).toNat * 4
      + (bits (8 * j + 6)).toNat * 2 + (bits (8 * j + 7)).toNat * 1)

/-- R131: the five bytes of the forty bits. -/
def pack (bits : Nat → Bool) : Frame where
  b0 := packByte bits 0
  b1 := packByte bits 1
  b2 := packByte bits 2
  b3 := packByte bits 3
  b4 := packByte bits 4

/-- R132: the sum is taken in unbounded arithmetic and then reduced to 8 bits. -/
def checksumValid (f : Frame) : Bool :=
  f.b4.toNat == (f.b0.toNat + f.b1.toNat + f.b2.toNat + f.b3.toNat) % 256

/-- R145 with R141, R143: humidity in tenths of a percent. -/
def humX10 (v : SensorVariant) (f : Frame) : BitVec 16 :=
  match v with
  | .type11 => BitVec.ofNat 16 (f.b0.toNat * 10)
  | .type21 => f.b0 ++ f.b1
  | .type22 => f.b0 ++ f.b1

/-- R145 with R142, R144: the temperature's magnitude in tenths of a degree. -/
def tempMag (v : SensorVariant) (f : Frame) : BitVec 16 :=
  match v with
  | .type11 => BitVec.ofNat 16 (f.b2.toNat * 10)
  | .type21 => (f.b2 &&& 0x7F#8) ++ f.b3
  | .type22 => (f.b2 &&& 0x7F#8) ++ f.b3

/-- R145 with R142, R144: the temperature's sign. -/
def tempNeg (v : SensorVariant) (f : Frame) : Bool :=
  match v with
  | .type11 => false
  | .type21 => f.b2.getLsbD 7
  | .type22 => f.b2.getLsbD 7

/-- `neg16(v) = (0x10000 − v) mod 0x10000` (00_scope.md R7). -/
def neg16 (v : BitVec 16) : BitVec 16 := BitVec.ofNat 16 (0x10000 - v.toNat)

/-- R145: the temperature in tenths of a degree, two's complement. -/
def tempX10 (v : SensorVariant) (f : Frame) : BitVec 16 :=
  if tempNeg v f then neg16 (tempMag v f) else tempMag v f

/-- Division rounded to the nearest natural number, ties to even. -/
def divNearestEven (num den : Nat) : Nat :=
  let q := num / den
  let r := num % den
  if den < 2 * r || (2 * r == den && q % 2 == 1) then q + 1 else q

/-- R147: the 31 low bits of the binary32 nearest to `mag / 10`, ties to even. With `k = floor (log2 (16·mag/10))`
the exponent is `k − 4` (biased `k + 123`) and the 24-bit significand is `mag / 10 · 2 ^ (27 − k)`, rounded; adding
its excess over `2 ^ 23` to the exponent field carries a rounding up to `2 ^ 24` into the exponent (log 18). -/
def f32Magnitude (mag : Nat) : Nat :=
  if mag = 0 then 0
  else
    let k := Nat.log2 (mag * 16 / 10)
    (k + 123) * 2 ^ 23 + (divNearestEven (mag * 2 ^ (27 - k)) 10 - 2 ^ 23)

/-- R147, U16: the 31 bits below the sign as the instance renders them. Every rendering gives 0 for the magnitude 0
(R146, R147). -/
def renderedMagnitude (f : Rendering) (mag : BitVec 16) : BitVec 31 :=
  match f with
  | .correctlyRounded => BitVec.ofNat 31 (f32Magnitude mag.toNat)
  | .supplied n => if mag = 0#16 then 0#31 else Config.suppliedMagnitude n mag

/-- R147: `F32View(valid, neg, mag)` of an instance with rendering `f`. Whatever the rendering, an invalid value is 0
(R25) and the sign is `neg` (R147). -/
def f32View (f : Rendering) (valid neg : Bool) (mag : BitVec 16) : Word :=
  if valid then BitVec.ofBool neg ++ renderedMagnitude f mag else 0#32

/-- R147: `RES_HUM_F32`. -/
def resHumF32 (f : Rendering) (r : ResHum) : Word := f32View f r.hv false r.x10

/-- R147: `RES_TEMP_F32`, whose magnitude is `X10`, negated when `TNEG = 1`. -/
def resTempF32 (f : Rendering) (r : ResTemp) : Word :=
  f32View f r.tv r.tneg (if r.tneg then neg16 r.x10 else r.x10)

end Sys2Proof.Machine
end

