-- ==== Sys2Proof/Machine/Ops.lean ====
section
/-! DEFINITION. The shared operations: time, the line primitives with their fault check, the pulse timer's polling
cycle, the ways a command ends, acceptance and the throttle, the response. -/

namespace Sys2Proof.Machine

/-! ## The fixed durations, in microseconds (00_scope.md R5) -/

def tStab : Nat := 250000
def tWakeLo : Nat := 20000
def tWakeHi : Nat := 40
def tRelease : Nat := 10
def tMinInterval : Nat := 2000000

/-! ## Ways a command ends: the exceptions of 60_exceptions.md -/

/-- What IoError, ClosedDriver and IllegalCommand do alike (R187, R188, R189): the outcome is written, the results
cleared, and the block is in IDLE. `CR` is untouched. -/
def endCommand (r : Result) (s : State) : State :=
  { s with
    result := r
    index := 0#6
    hit := false
    resHum := ResHum.clear
    resTemp := ResTemp.clear
    phase := phIdle }

/-- R187: the step that met a line fault is replaced by this. -/
def ioError (s : State) : State := { endCommand .ioError s with ptCnt := 0#64 }

/-- R184: `raise F(idx)`: the failure is recorded in `TXF` and the engine goes to COMMIT. -/
def raiseFailure (kind : FailKind) (idx : BitVec 6) (s : State) : State :=
  { s with txf := { kind := kind, idx := idx }, ptCnt := 0#64, phase := phCommit }

/-- R190: the write is lost and only `OVR` is set. -/
def overrun (s : State) : State := { s with ovr := true }

/-! ## Line primitives (40_line_and_timer.md R81 to R85) -/

/-- `line_fault` as the block sees it: a platform whose pad cannot fail ties it to 0 (R80, R85). -/
def lineFails (s : State) : Bool := s.lineFault && s.params.ioFaultPossible

/-- R85 and the opening of 41_protocol_engine.md section 3: a step that issues a line primitive while `line_fault`
is 1 is replaced whole by IoError. `done` is the step's result when the primitives succeed. -/
def lineStep (s done : State) : State := if lineFails s then ioError s else done

/-- R81, without the fault check that `lineStep` makes. -/
def setDirection (d : Dir) (s : State) : State := { s with lineDir := d }

/-- R82, without the fault check that `lineStep` makes. -/
def setLevel (v : Bool) (s : State) : State := { s with lineLvl := v }

/-! ## Time -/

/-- The pulse-timer phases ACK_LO, ACK_HI, BIT_LO, BIT_HI (R87). -/
def polling (s : State) : Bool :=
  s.phase == phAckLo || s.phase == phAckHi || s.phase == phBitLo || s.phase == phBitHi

/-- The environment lets time pass (R17). While `rst` is held `now` stays at its reset value (R210). While the pulse
timer runs, time passes by polling cycles only, so that samples are `T_POLL` apart (R93, log 6). -/
def passTime (us : Nat) (s : State) : State := if s.rst || polling s then s else { s with now := s.now + us }

/-- One polling cycle takes `T_POLL` (R93, logs 5 and 7). -/
def passPoll (s : State) : State :=
  { s with
    now := s.now + (s.nowSub + s.params.tPollNs) / 1000
    nowSub := (s.nowSub + s.params.tPollNs) % 1000 }

/-- R84: the hold of duration `d` may end at this step. -/
def holdDone (d : Nat) (s : State) : Bool := decide (d ≤ s.now - s.tEnter)

/-- R84: a hold phase changes nothing until its duration has passed; then it does its exit actions. -/
def hold (d : Nat) (exit : State → State) (s : State) : State := if holdDone d s then exit s else s

/-- Entering the hold phase `ph` (R84): `T_ENTER <- now; PHASE <- ph`. -/
def enterHold (ph : BitVec 4) (s : State) : State := { s with tEnter := s.now, phase := ph }

/-! ## The pulse timer (R86, R87) -/

/-- Entering the pulse-timer phase `ph`: `PT_CNT <- 0; PHASE <- ph` (R106 to R110). -/
def enterPoll (ph : BitVec 4) (s : State) : State := { s with ptCnt := 0#64, phase := ph }

/-- R87, one polling cycle awaiting `level`; `exit c` is what the phase does when the timer's result is `c`. -/
def pollStep (level : Bool) (exit : Count → State → State) (s : State) : State :=
  lineStep s
    (if s.lineIn != level then exit s.ptCnt (passPoll s)
     else if s.params.maxCycles.toNat ≤ s.ptCnt.toNat + 1 then exit 0#64 (passPoll s)
     else { passPoll s with ptCnt := s.ptCnt + 1#64 })

/-! ## Acceptance and the throttle (41_protocol_engine.md R101, R102, R115, R116) -/

/-- The `force` flag is bit 1 of the opcode (R61, R116). -/
def forceFlag (op : Byte) : Bool := op.getLsbD 1

/-- R101, R115: the command is served from the cache. -/
def cacheHit (op : Byte) (s : State) : Bool :=
  !forceFlag op && s.cr.tsv && decide (s.now - s.cr.ts < tMinInterval)

/-- R102: the first step of a transaction. -/
def startTransaction (s : State) : State :=
  enterHold phStab (setLevel true (setDirection .output { s with rf := Frame.zero, pm := pmZero, txf := Txf.clear }))

/-- R101 for a legal opcode: what the acceptance step does in IDLE. -/
def accept (op : Byte) (s : State) : State :=
  if s.closed then endCommand .closedDriver s
  else if cacheHit op s then { s with cmdl := op, hit := true, phase := phRespond }
  else lineStep s (startTransaction { s with cmdl := op, hit := false })

/-- R45 for a legal opcode written to `CMD`: overrun while busy, else acceptance. -/
def command (op : Byte) (s : State) : State := if busy s then overrun s else accept op s

/-- R45, R189 for an opcode that is no command: overrun while busy, else IllegalCommand. -/
def illegalCommand (s : State) : State := if busy s then overrun s else endCommand .illegalCommand s

/-- R45, R64 for a word with bit 0 = 0 written to `CTRL`: overrun while busy, else nothing. -/
def ctrlNoOperation (s : State) : State := if busy s then overrun s else s

/-- R188: the close request. The line is released without a fault check. -/
def closeDriver (s : State) : State := if busy s then overrun s else setDirection .input { s with closed := true }

/-! ## Response: the return (44_read_commands.md R160) -/

/-- The humidity a successful response writes: selected by bit 3 (`H`) of `CMDL`. -/
def respondHum (s : State) : ResHum :=
  if s.cmdl.getLsbD 3 then { hv := true, x10 := humX10 s.variant (frameOfF40 s.cr.frame) } else ResHum.clear

/-- The temperature a successful response writes: selected by bit 2 (`T`) of `CMDL`. -/
def respondTemp (s : State) : ResTemp :=
  if s.cmdl.getLsbD 2 then
    { tv := true
      tneg := tempNeg s.variant (frameOfF40 s.cr.frame)
      x10 := tempX10 s.variant (frameOfF40 s.cr.frame) }
  else ResTemp.clear

/-- R160: the outcome is delivered from `CR` and the block returns to IDLE. -/
def deliver (s : State) : State :=
  if s.cr.ok then
    { s with result := .ok, index := 0#6, resHum := respondHum s, resTemp := respondTemp s, phase := phIdle }
  else
    { s with
      result := resultOfFail s.cr.fkind
      index := s.cr.fidx
      resHum := ResHum.clear
      resTemp := ResTemp.clear
      phase := phIdle }

/-! ## What happens next (logs 1 and 2) -/

/-- The next event and the state without it: the oldest of `inputs`, or the next of the free stream. -/
def takeEvent (s : State) : Event × State :=
  match s.inputs with
  | e :: rest => (e, { s with inputs := rest })
  | [] => (Config.freeEvent s.freeIdx, { s with freeIdx := s.freeIdx + 1 })

end Sys2Proof.Machine
end

