-- ==== Sys2Proof/Machine/Commands.lean ====
section
/-! DEFINITION. The host commands and the close request: one meaning per row (41_protocol_engine.md R120, R121;
44_read_commands.md R161 to R163; 60_exceptions.md R188). The step a command takes is its acceptance (R101); the
transaction and the response are the phases it starts. -/

namespace Sys2Proof.Machine

/-- `CAP`, `RegWrite(0x000, 0x01)` (R120). -/
def execCap (s : State) : Host.Outcome State Fault Refusal := .next (command 0x01#8 s)

/-- `CAP.F`, `RegWrite(0x000, 0x03)` (R121). -/
def execCapF (s : State) : Host.Outcome State Fault Refusal := .next (command 0x03#8 s)

/-- `RDT`, `RegWrite(0x000, 0x04)` (R161). -/
def execRdt (s : State) : Host.Outcome State Fault Refusal := .next (command 0x04#8 s)

/-- `RDH`, `RegWrite(0x000, 0x08)` (R162). -/
def execRdh (s : State) : Host.Outcome State Fault Refusal := .next (command 0x08#8 s)

/-- `RDB`, `RegWrite(0x000, 0x0C)` (R163). -/
def execRdb (s : State) : Host.Outcome State Fault Refusal := .next (command 0x0C#8 s)

/-- `CLOSE`, `RegWrite(0x008, v)` with `v[0] = 1` (R188). -/
def execClose (s : State) : Host.Outcome State Fault Refusal := .next (closeDriver s)

end Sys2Proof.Machine
end

