-- ==== Sys2Proof/Machine/Sequencer.lean ====
section
/-! DEFINITION. The phases of the sequencer: one meaning per row, each one engine step (41_protocol_engine.md R103 to
R112; 42_frame_assembly.md R133; 44_read_commands.md R160). -/

namespace Sys2Proof.Machine

/-- `IDLE`: the engine waits for a `CMD` write (R65, R101). -/
def execIdle (s : State) : Host.Outcome State Fault Refusal := .next s

/-- `STAB` (R103): after the hold, `SetLevel(0)` and WAKE_LO. -/
def execStab (s : State) : Host.Outcome State Fault Refusal :=
  .next (hold tStab (fun s => lineStep s (enterHold phWakeLo (setLevel false s))) s)

/-- `WAKE_LO` (R104): after the hold, `SetLevel(1)` and WAKE_HI. -/
def execWakeLo (s : State) : Host.Outcome State Fault Refusal :=
  .next (hold tWakeLo (fun s => lineStep s (enterHold phWakeHi (setLevel true s))) s)

/-- `WAKE_HI` (R105): after the hold, `SetDirection(Input)` and RELEASE. -/
def execWakeHi (s : State) : Host.Outcome State Fault Refusal :=
  .next (hold tWakeHi (fun s => lineStep s (enterHold phRelease (setDirection .input s))) s)

/-- `RELEASE` (R106): after the hold, ACK_LO; no line primitive is issued. -/
def execRelease (s : State) : Host.Outcome State Fault Refusal :=
  .next (hold tRelease (enterPoll phAckLo) s)

/-- ACK_LO's exit (R107). -/
def ackLoExit (c : Count) (s : State) : State :=
  if c = 0#64 then raiseFailure .timeoutAck 0#6 s else enterPoll phAckHi s

/-- ACK_HI's exit (R108). -/
def ackHiExit (c : Count) (s : State) : State :=
  if c = 0#64 then raiseFailure .timeoutAck 0#6 s else enterPoll phBitLo { s with idx := 0#6 }

/-- BIT_LO's exit (R109). -/
def bitLoExit (c : Count) (s : State) : State :=
  if c = 0#64 then raiseFailure .timeoutBit s.idx s
  else enterPoll phBitHi { s with pm := pmSet s.pm (2 * s.idx.toNat) c }

/-- BIT_HI's exit (R110). -/
def bitHiExit (c : Count) (s : State) : State :=
  if c = 0#64 then raiseFailure .timeoutBit s.idx s
  else if s.idx = 39#6 then enterPoll phAssemble { s with pm := pmSet s.pm 79 c }
  else enterPoll phBitLo { s with pm := pmSet s.pm (2 * s.idx.toNat + 1) c, idx := s.idx + 1#6 }

/-- `ACK_LO` (R107): one polling cycle awaiting level 0. -/
def execAckLo (s : State) : Host.Outcome State Fault Refusal := .next (pollStep false ackLoExit s)

/-- `ACK_HI` (R108): one polling cycle awaiting level 1. -/
def execAckHi (s : State) : Host.Outcome State Fault Refusal := .next (pollStep true ackHiExit s)

/-- `BIT_LO` (R109): one polling cycle awaiting level 0. -/
def execBitLo (s : State) : Host.Outcome State Fault Refusal := .next (pollStep false bitLoExit s)

/-- `BIT_HI` (R110): one polling cycle awaiting level 1. -/
def execBitHi (s : State) : Host.Outcome State Fault Refusal := .next (pollStep true bitHiExit s)

/-- The frame the counts stand for (R130, R131). -/
def assembled (s : State) : Frame := pack (frameBit s.pm)

/-- `ASSEMBLE` (R133): `RF` is written whether or not the checksum holds. -/
def execAssemble (s : State) : Host.Outcome State Fault Refusal :=
  .next
    { s with
      rf := assembled s
      txf := if checksumValid (assembled s) then s.txf else { kind := .checksumMismatch, idx := 0#6 }
      phase := phCommit }

/-- `COMMIT` (R112): all fields of `CR` change together, whatever the outcome. -/
def execCommit (s : State) : Host.Outcome State Fault Refusal :=
  .next
    { s with
      cr :=
        { tsv := true
          ts := s.now
          ok := s.txf.kind == .none
          frame := s.rf.toF40
          fkind := s.txf.kind
          fidx := s.txf.idx }
      phase := phRespond }

/-- `RESPOND` (R160). -/
def execRespond (s : State) : Host.Outcome State Fault Refusal := .next (deliver s)

end Sys2Proof.Machine
end

