-- ==== Sys2Proof/Machine/Dispatch.lean ====
section
/-! DEFINITION. The meaning of every instruction: one arm per constructor. -/

namespace Sys2Proof.Machine

def exec (i : Instr) (s : State) : Host.Outcome State Fault Refusal :=
  match i with
  | .cap => Sys2Proof.Machine.execCap s
  | .capF => Sys2Proof.Machine.execCapF s
  | .rdt => Sys2Proof.Machine.execRdt s
  | .rdh => Sys2Proof.Machine.execRdh s
  | .rdb => Sys2Proof.Machine.execRdb s
  | .close => Sys2Proof.Machine.execClose s
  | .idle => Sys2Proof.Machine.execIdle s
  | .stab => Sys2Proof.Machine.execStab s
  | .wakeLo => Sys2Proof.Machine.execWakeLo s
  | .wakeHi => Sys2Proof.Machine.execWakeHi s
  | .release => Sys2Proof.Machine.execRelease s
  | .ackLo => Sys2Proof.Machine.execAckLo s
  | .ackHi => Sys2Proof.Machine.execAckHi s
  | .bitLo => Sys2Proof.Machine.execBitLo s
  | .bitHi => Sys2Proof.Machine.execBitHi s
  | .assemble => Sys2Proof.Machine.execAssemble s
  | .commit => Sys2Proof.Machine.execCommit s
  | .respond => Sys2Proof.Machine.execRespond s

end Sys2Proof.Machine
end

