-- ==== Sys2Proof/Machine/Registers.lean ====
section
/-! DEFINITION. The host register window: `RegRead` (20_memory.md R44, R48 to R50). -/

namespace Sys2Proof.Machine

/-- R49, R43: the word of the `PM` window at byte offset `a` (0x400 to 0x67C): entry `(a − 0x400) / 8`, its low half
at the lower offset. -/
def pmWindow (s : State) (a : Nat) : Word :=
  let entry := pmEntry s.pm ((a - 0x400) / 8)
  if a % 8 = 4 then entry.extractLsb' 32 32 else entry.extractLsb' 0 32

/-- R44: the value of the register at an aligned byte offset, as the state stands now. `CMD` and every reserved offset
read 0 (R28, R50). -/
def regRead (s : State) (addr : Offset) : Word :=
  match addr.toNat with
  | 0x004 => statusWord s
  | 0x008 => ctrlWord s
  | 0x00C => cfgWord s
  | 0x010 => s.params.maxCycles.extractLsb' 0 32
  | 0x014 => s.params.maxCycles.extractLsb' 32 32
  | 0x018 => s.cr.frame.extractLsb' 0 32
  | 0x01C => 0#24 ++ s.cr.frame.extractLsb' 32 8
  | 0x020 => cacheWord s
  | 0x028 => resHumWord s.resHum
  | 0x02C => resTempWord s.resTemp
  | 0x030 => resHumF32 s.params.rendering s.resHum
  | 0x034 => resTempF32 s.params.rendering s.resTemp
  | a => if 0x400 ≤ a ∧ a ≤ 0x67C then pmWindow s a else 0#32

end Sys2Proof.Machine
end

