-- ==== Sys2Proof/Machine/Fetch.lean ====
section
/-! DEFINITION. Where an instruction comes from (a host write to `CMD` or `CTRL`, or the `PHASE` register), what
happens to a word that is no instruction, and the events that run no instruction. -/

namespace Sys2Proof.Machine

/-- The offset of `CMD` (R28, R48). -/
def cmdOffset : Offset := 0x000#12

/-- The offset of `CTRL` (R30, R48). -/
def ctrlOffset : Offset := 0x008#12

/-- R45, R46: a host write of an aligned word to `CMD` issues its low byte, to `CTRL` its bit 0; the bits above are
ignored (R28, R63, R64). Every other write issues nothing. -/
def writtenWord (size : AccessSize) (addr : Offset) (v : Word) : Option FetchWord :=
  match size with
  | .word =>
    if addr = cmdOffset then some (.cmd (v.extractLsb' 0 8))
    else if addr = ctrlOffset then some (.ctrl (v.extractLsb' 0 1))
    else none
  | .byte => none
  | .half => none

/-- The encoded instruction an event issues: an engine step runs the phase that `PHASE` holds. -/
def issuedWord (e : Event) (s : State) : Option FetchWord :=
  match e with
  | .engine => some (.phase s.phase)
  | .host (.write size addr v) => writtenWord size addr v
  | .host (.read _ _) => none
  | .tick _ => none
  | .line _ => none
  | .fault _ => none
  | .reset _ => none
  | .release => none

/-- The encoded instruction an event runs. While `rst` is held none runs: every element keeps its reset value
(R210). -/
def fetch (e : Event) (s : State) : Option FetchWord := if s.rst then none else issuedWord e s

/-- A word that is no instruction: an illegal opcode completes with IllegalCommand (R63, R189), a 0 written to `CTRL`
is no operation (R64), a reserved phase code has no step (R65, 93_implementation_defined.md U14). -/
def rejectWord (r : DecodeError) (s : State) : Host.Outcome State Fault Refusal :=
  match r with
  | .illegalOpcode _ => .next (illegalCommand s)
  | .noOperation => .next (ctrlNoOperation s)
  | .reservedPhase code => .refused (.reservedPhase code)

/-- R44: an aligned word is read; the block does not change. R46: any other read has no step. -/
def hostRead (size : AccessSize) (addr : Offset) (s : State) : Host.Outcome State Fault Refusal :=
  if (HostAccess.read size addr).wf then .next { s with hostData := regRead s addr }
  else .refused (.accessNotAlignedWord size addr)

/-- R45, R50: an aligned word written to anything but `CMD` and `CTRL` is ignored, and so is every aligned word
written while `rst` is held (R210). R46: any other write has no step. -/
def hostWriteIgnored (size : AccessSize) (addr : Offset) (v : Word) (s : State) : Host.Outcome State Fault Refusal :=
  if (HostAccess.write size addr v).wf then .next s else .refused (.accessNotAlignedWord size addr)

/-- R210, R211: `rst` is 1, and acts at once in any phase. What is not the block's (the other ports, parameters, what
the agents do next) stays. -/
def resetBlock (v : SensorVariant) (s : State) : State :=
  { State.afterReset s.params v with
    rst := true
    lineIn := s.lineIn
    lineFault := s.lineFault
    hostData := s.hostData
    inputs := s.inputs
    freeIdx := s.freeIdx }

/-- R26, R210: reset latches the strap; strap 3 is refused (93_implementation_defined.md U7). -/
def resetEvent (strap : BitVec 2) (s : State) : Host.Outcome State Fault Refusal :=
  match variantOfCode strap with
  | some v => .next (resetBlock v s)
  | none => .refused .reservedVariant

/-- R210: at the step `rst` is released every element still has its reset value; from then on events run. -/
def releaseEvent (s : State) : State := { s with rst := false }

/-- An event that runs no instruction. (An engine step or a write to `CMD` or `CTRL` comes here only while `rst` is
held, and then does nothing: R210.) -/
def applyEvent (e : Event) (s : State) : Host.Outcome State Fault Refusal :=
  match e with
  | .engine => .next s
  | .host (.read size addr) => hostRead size addr s
  | .host (.write size addr v) => hostWriteIgnored size addr v s
  | .tick us => .next (passTime us s)
  | .line level => .next { s with lineIn := level }
  | .fault asserted => .next { s with lineFault := asserted }
  | .reset strap => resetEvent strap s
  | .release => .next (releaseEvent s)

/-- One event at the state that is left when it has been taken. -/
def runEvent (e : Event) (s : State) : Host.Outcome State Fault Refusal :=
  match fetch e s with
  | some w =>
    match decode w with
    | .ok i => exec i s
    | .error r => rejectWord r s
  | none => applyEvent e s

/-- The word the host writes to issue a `CMD8` or `CTRL1` word; the ignored bits are 0. -/
def hostWriteOf (addr : Offset) (n : Nat) : Event := .host (.write .word addr (BitVec.ofNat 32 n))

/-- `s` with the table's word as the next thing to run (log 9): `rst` is not held, a command or close word is the
host's next write, a phase code stands in `PHASE` and the engine steps next. -/
def placeWord (w : FetchWord) (s : State) : State :=
  match w with
  | .cmd op => { s with rst := false, inputs := hostWriteOf cmdOffset op.toNat :: s.inputs }
  | .ctrl b => { s with rst := false, inputs := hostWriteOf ctrlOffset b.toNat :: s.inputs }
  | .phase code => { s with rst := false, phase := code, inputs := .engine :: s.inputs }

end Sys2Proof.Machine
end

