-- ==== Sys2Proof/Machine/Step.lean ====
section
/-! DEFINITION. One step of the machine: the next event of the three agents (00_scope.md R6, 20_memory.md R51). -/

namespace Sys2Proof.Machine

/-- One atomic step of one agent. -/
def step (s : State) : Host.Outcome State Fault Refusal :=
  runEvent (takeEvent s).1 (takeEvent s).2

/-- `s` with a word of the opcode table placed so that the very next step runs it (log 9). -/
def State.withFetchWord (s : State) (nbits w : Nat) : State :=
  placeWord (tableWord nbits w) s

end Sys2Proof.Machine
end

