-- ==== Sys2Proof/Machine/Contract.lean ====
section
/-! DEFINITION. The big-step contract of a transaction, as the spec writes it beside the small steps: `ExpectPulse`
(40_line_and_timer.md R86) and steps 5 to 11 of `Capture` (41_protocol_engine.md R100), over the stream of samples the
environment answers with; and the run of the sequencer over the same stream. The machine does not use them. -/

namespace Sys2Proof.Machine

/-- R86: `ExpectPulse(level)` with the counter at `cnt`: the result and the samples not taken. `none` when the stream
ends before the call does. -/
def expectPulse (level : Bool) (maxCycles cnt : Nat) : List Bool → Option (Nat × List Bool)
  | [] => none
  | x :: xs =>
    if x != level then some (cnt, xs)
    else if maxCycles ≤ cnt + 1 then some (0, xs)
    else expectPulse level maxCycles (cnt + 1) xs

/-- What an acquisition leaves: the capture buffer, the failure if any, and the samples not taken. -/
structure Acquired where
  pm : Vector Count 80
  txf : Txf
  rest : List Bool
  deriving DecidableEq, Repr

/-- R100, step 6: `pairs` bit pairs from index `i` on. -/
def acquireBits (maxCycles : Nat) : (pairs i : Nat) → Vector Count 80 → List Bool → Option Acquired
  | 0, _, pm, xs => some { pm := pm, txf := Txf.clear, rest := xs }
  | pairs + 1, i, pm, xs =>
    match expectPulse false maxCycles 0 xs with
    | none => none
    | some (lo, ys) =>
      if lo = 0 then some { pm := pm, txf := { kind := .timeoutBit, idx := BitVec.ofNat 6 i }, rest := ys }
      else
        match expectPulse true maxCycles 0 ys with
        | none => none
        | some (hi, zs) =>
          if hi = 0 then
            some
              { pm := pmSet pm (2 * i) (BitVec.ofNat 64 lo)
                txf := { kind := .timeoutBit, idx := BitVec.ofNat 6 i }
                rest := zs }
          else
            acquireBits maxCycles pairs (i + 1)
              (pmSet (pmSet pm (2 * i) (BitVec.ofNat 64 lo)) (2 * i + 1) (BitVec.ofNat 64 hi)) zs

/-- R100, steps 5 and 6, from a cleared buffer. -/
def acquire (maxCycles : Nat) (xs : List Bool) : Option Acquired :=
  match expectPulse false maxCycles 0 xs with
  | none => none
  | some (lo, ys) =>
    if lo = 0 then some { pm := pmZero, txf := { kind := .timeoutAck, idx := 0#6 }, rest := ys }
    else
      match expectPulse true maxCycles 0 ys with
      | none => none
      | some (hi, zs) =>
        if hi = 0 then some { pm := pmZero, txf := { kind := .timeoutAck, idx := 0#6 }, rest := zs }
        else acquireBits maxCycles 40 0 pmZero zs

/-- R100, steps 8 to 11: the reading an acquisition ends in, stamped `ts`. -/
def captured (a : Acquired) (ts : Nat) : CachedReading :=
  let rf := if a.txf.kind = .none then pack (frameBit a.pm) else Frame.zero
  let txf := if a.txf.kind = .none ∧ checksumValid rf = false then { kind := .checksumMismatch, idx := 0#6 } else a.txf
  { tsv := true, ts := ts, ok := txf.kind == .none, frame := rf.toF40, fkind := txf.kind, fidx := txf.idx }

/-- The engine steps of the pulse-timer phases, each taking the next sample of the stream; it ends at the first
state in another phase, with the samples not taken. -/
def runSamples : List Bool → State → Option (State × List Bool)
  | [], s => if polling s then none else some (s, [])
  | x :: xs, s =>
    if polling s then
      match runEvent .engine { s with lineIn := x } with
      | .next t => runSamples xs t
      | .fault _ => none
      | .refused _ => none
    else some (s, x :: xs)

/-- The engine steps ASSEMBLE, when the sequencer stands there, and COMMIT. -/
def finishCapture (s : State) : Host.Outcome State Fault Refusal :=
  if s.phase = phAssemble then
    match runEvent .engine s with
    | .next t => runEvent .engine t
    | .fault r => .fault r
    | .refused r => .refused r
  else runEvent .engine s

end Sys2Proof.Machine
end

