-- ==== Sys2Proof/Safety.lean ====
section
/-! DEFINITION. What every state of a run is like: the invariant `RunInv`, and when an event is one the model has a step
for. The spec calls each clause a fact of the machine, in the rule named beside it. -/

namespace Sys2Proof.Machine

/-- How many entries of the capture buffer the transaction in progress has written (R18, R109, R110). -/
def filled (s : State) : Nat :=
  if s.phase = phBitLo then 2 * s.idx.toNat
  else if s.phase = phBitHi then 2 * s.idx.toNat + 1
  else if s.phase = phAssemble then 80
  else 0

/-- The phases of a transaction before its outcome is known: STAB to ASSEMBLE. -/
def acquiring (s : State) : Prop := 1 ≤ s.phase.toNat ∧ s.phase.toNat ≤ 9

/-- The outcomes an attempt can have, with the index and the frame each leaves (R74, R112, R123, R133). -/
def attemptLegal (kind : FailKind) (idx : BitVec 6) (f : Frame) : Prop :=
  match kind with
  | .none => idx = 0#6 ∧ checksumValid f = true
  | .checksumMismatch => idx = 0#6 ∧ checksumValid f = false
  | .timeoutAck => idx = 0#6 ∧ f = Frame.zero
  | .timeoutBit => idx.toNat ≤ 39 ∧ f = Frame.zero

/-- What `CR` can hold (R21): nothing but the stale value before the first attempt; after it, an outcome. -/
def readingLegal (c : CachedReading) : Prop :=
  if c.tsv then (c.ok = true ↔ c.fkind = .none) ∧ attemptLegal c.fkind c.fidx (frameOfF40 c.frame)
  else c = CachedReading.stale

/-- What the pad latches hold in each phase of a transaction (R117, R122). -/
def padLegal (s : State) : Prop :=
  (s.phase = phStab → s.lineDir = .output ∧ s.lineLvl = true) ∧
  (s.phase = phWakeLo → s.lineDir = .output ∧ s.lineLvl = false) ∧
  (s.phase = phWakeHi → s.lineDir = .output ∧ s.lineLvl = true) ∧
  (4 ≤ s.phase.toNat → s.phase.toNat ≤ 10 → s.lineDir = .input ∧ s.lineLvl = true)

/-- What the result registers can hold (R24, R145, R160). -/
def resultsLegal (s : State) : Prop :=
  (s.result ≠ .ok → s.resHum = ResHum.clear ∧ s.resTemp = ResTemp.clear) ∧
  (s.resHum.hv = false → s.resHum = ResHum.clear) ∧
  (s.resTemp.tv = false → s.resTemp = ResTemp.clear) ∧
  (s.resTemp.tneg = false → s.resTemp.x10.toNat < 0x8000) ∧
  s.resTemp.x10 ≠ 0x8000#16

/-- The invariant of every run. -/
structure RunInv (s : State) : Prop where
  /-- Codes 12 to 15 are never held (R11). -/
  phase_legal : s.phase.toNat < 12
  /-- R12: it never exceeds 39. -/
  idx_le : s.idx.toNat ≤ 39
  /-- R13: while a command executes, `CMDL` holds its opcode. -/
  cmdl_legal : busy s = true → Opcode.wf s.cmdl = true
  /-- R16, R17: a hold began in the past. -/
  enter_le : s.tEnter ≤ s.now
  /-- R17, R21: the last attempt was in the past. -/
  stamp_le : s.cr.ts ≤ s.now
  /-- The model's own fraction of a microsecond (log 5). -/
  sub_lt : s.nowSub < 1000
  /-- R15: the counter is 0 outside the pulse-timer phases. -/
  count_rest : polling s = false → s.ptCnt = 0#64
  /-- R15, R90: it stays below `MAX_CYCLES`. -/
  count_lt : s.ptCnt = 0#64 ∨ s.ptCnt.toNat < s.params.maxCycles.toNat
  /-- R18, R70: values `>= MAX_CYCLES` never occur. -/
  pm_lt : ∀ k < 80, pmEntry s.pm k = 0#64 ∨ (pmEntry s.pm k).toNat < s.params.maxCycles.toNat
  /-- R18: during a transaction exactly the entries measured so far are not 0. -/
  pm_filled : acquiring s → ∀ k < 80, (pmEntry s.pm k ≠ 0#64 ↔ k < filled s)
  /-- R19: `RF` is all zero until ASSEMBLE writes it. -/
  rf_zero : acquiring s → s.rf = Frame.zero
  /-- R20: no failure is recorded while the transaction goes on. -/
  txf_clear : acquiring s → s.txf = Txf.clear
  /-- R112, R123, R133: what COMMIT finds. -/
  commit_legal : s.phase = phCommit → attemptLegal s.txf.kind s.txf.idx s.rf
  /-- R21. -/
  reading_legal : readingLegal s.cr
  /-- R115 (e): RESPOND always has an attempt to report. -/
  respond_tsv : s.phase = phRespond → s.cr.tsv = true
  /-- R101: only a cache that holds an attempt is hit. -/
  hit_tsv : s.hit = true → s.cr.tsv = true
  /-- R117, R122. -/
  pad_legal : padLegal s
  /-- R188: a closed driver is idle with the line released. -/
  closed_idle : s.closed = true → s.phase = phIdle ∧ s.lineDir = .input
  /-- R23: `INDEX` is a pair index when `RESULT = 3`, and 0 otherwise. -/
  index_legal : s.index.toNat ≤ 39 ∧ (s.result ≠ .timeoutBit → s.index = 0#6)
  /-- R24, R160. -/
  results_legal : resultsLegal s
  /-- R210: while `rst` is held every element has its reset value. -/
  held_reset : s.rst = true → s = resetBlock s.variant s

/-- The next event is one the model has a step for (20_memory.md R46, 93_implementation_defined.md U7). -/
def nextEventLegal (s : State) : Bool := (takeEvent s).1.wf

end Sys2Proof.Machine
end

