-- ==== Sys2Proof/Certificates/Slice0/Obligations.lean ====
section
/-! DEFINITION. The statements for the provers. The helpers of the first part write out, from the rules, the states and
conditions the statements speak of. -/

namespace Sys2Proof.Stated

open Sys2Proof.Machine

/-- The five commands and their opcodes (30_encoding.md R62). -/
def commandRows : List (Instr × Byte) :=
  [(.cap, 0x01#8), (.capF, 0x03#8), (.rdt, 0x04#8), (.rdh, 0x08#8), (.rdb, 0x0C#8)]

/-- The twelve phases and their codes (30_encoding.md R65). -/
def phaseRows : List (Instr × BitVec 4) :=
  [(.idle, 0#4), (.stab, 1#4), (.wakeLo, 2#4), (.wakeHi, 3#4), (.release, 4#4), (.ackLo, 5#4), (.ackHi, 6#4),
   (.bitLo, 7#4), (.bitHi, 8#4), (.assemble, 9#4), (.commit, 10#4), (.respond, 11#4)]

/-- The four pulse-timer phases with the level each awaits (40_line_and_timer.md R87). -/
def timerRows : List (Instr × BitVec 4 × Bool) :=
  [(.ackLo, 5#4, false), (.ackHi, 6#4, true), (.bitLo, 7#4, false), (.bitHi, 8#4, true)]

/-- The four hold phases with their durations in microseconds (R103 to R106). -/
def holdRows : List (Instr × Nat) := [(.stab, 250000), (.wakeLo, 20000), (.wakeHi, 40), (.release, 10)]

/-- The next event. -/
def event (s : State) : Event := (takeEvent s).1

/-- The state once that event has been taken from the model's own list. -/
def after (s : State) : State := (takeEvent s).2

/-- The next event is a reset. -/
def resets (s : State) : Prop := ∃ strap, event s = .reset strap

/-- Every element of the block has its value of R39's table but `VARIANT`, which has `v`. -/
def AtResetValues (v : SensorVariant) (t : State) : Prop :=
  t.phase = 0#4 ∧ t.idx = 0#6 ∧ t.cmdl = 0#8 ∧ t.lineDir = .input ∧ t.lineLvl = true ∧ t.ptCnt = 0#64 ∧ t.tEnter = 0 ∧
  t.now = 0 ∧ (∀ k < 80, pmEntry t.pm k = 0#64) ∧
  t.rf = { b0 := 0#8, b1 := 0#8, b2 := 0#8, b3 := 0#8, b4 := 0#8 } ∧ t.txf = { kind := .none, idx := 0#6 } ∧
  t.cr = { tsv := false, ts := 0, ok := false, frame := 0#40, fkind := .none, fidx := 0#6 } ∧ t.hit = false ∧
  t.ovr = false ∧ t.closed = false ∧ t.result = .none ∧ t.index = 0#6 ∧ t.resHum = { hv := false, x10 := 0#16 } ∧
  t.resTemp = { tv := false, tneg := false, x10 := 0#16 } ∧ t.variant = v

/-- The next event is a word the host writes to CMD. -/
def WritesCmd (s : State) : Prop := ∃ v, event s = .host (.write .word 0x000#12 v)

/-- No line primitive fails at this step (R80, R85). -/
abbrev LineOk (s : State) : Prop := s.lineFault = false ∨ s.params.ioFaultPossible = false

/-- Every line primitive fails at this step (R80, R85). -/
abbrev LineBad (s : State) : Prop := s.lineFault = true ∧ s.params.ioFaultPossible = true

/-- R101: the command is served from the cache: not forced, an attempt is recorded, less than 2 000 000 µs ago. -/
abbrev Hits (op : Byte) (s : State) : Prop :=
  op.getLsbD 1 = false ∧ s.cr.tsv = true ∧ s.now < s.cr.ts + 2000000

/-- What R187, R188 and R189 write alike. -/
def ended (r : Result) (s : State) : State :=
  { s with
    result := r
    index := 0#6
    hit := false
    resHum := { hv := false, x10 := 0#16 }
    resTemp := { tv := false, tneg := false, x10 := 0#16 }
    phase := 0#4 }

/-- What R187 writes. -/
def faulted (s : State) : State := { ended .ioError s with ptCnt := 0#64 }

/-- What R101 and R102 write when a transaction starts. -/
def started (op : Byte) (s : State) : State :=
  { s with
    cmdl := op
    hit := false
    rf := { b0 := 0#8, b1 := 0#8, b2 := 0#8, b3 := 0#8, b4 := 0#8 }
    pm := Vector.replicate 80 0#64
    txf := { kind := .none, idx := 0#6 }
    lineDir := .output
    lineLvl := true
    tEnter := s.now
    phase := 1#4 }

/-- What R101 writes on a hit. -/
def hitAccepted (op : Byte) (s : State) : State := { s with cmdl := op, hit := true, phase := 11#4 }

/-- `s` at another time of the model's clock of microseconds and nanoseconds (log 5). The statements about a polling
cycle leave open which time that is; `PollingCyclesAreTPollApart` says it. -/
def atTime (tm sub : Nat) (s : State) : State := { s with now := tm, nowSub := sub }

/-- R87: the timer ends at this step with result `c`. -/
def PollEnds (level : Bool) (s : State) (c : Count) : Prop :=
  (s.lineIn ≠ level ∧ c = s.ptCnt) ∨
  (s.lineIn = level ∧ s.params.maxCycles.toNat ≤ s.ptCnt.toNat + 1 ∧ c = 0#64)

/-- R87: the timer goes on. -/
def PollGoesOn (level : Bool) (s : State) : Prop :=
  s.lineIn = level ∧ s.ptCnt.toNat + 1 < s.params.maxCycles.toNat

/-- R184. -/
def failed (kind : FailKind) (idx : BitVec 6) (s : State) : State :=
  { s with txf := { kind := kind, idx := idx }, ptCnt := 0#64, phase := 10#4 }

/-- R187: the steps that issue a line primitive: the acceptance that starts a transaction, the exit steps of STAB,
WAKE_LO and WAKE_HI, and every polling cycle. -/
def IssuesPrimitive (i : Instr) (s : State) : Prop :=
  (∃ op, (i, op) ∈ commandRows ∧ s.phase = 0#4 ∧ s.closed = false ∧ ¬ Hits op s) ∨
  (i = .stab ∧ s.tEnter + 250000 ≤ s.now) ∨
  (i = .wakeLo ∧ s.tEnter + 20000 ≤ s.now) ∨
  (i = .wakeHi ∧ s.tEnter + 40 ≤ s.now) ∨
  (∃ p l, (i, p, l) ∈ timerRows)

/-- An outcome with its next state changed by `f`. -/
def onNext (f : State → State) (o : Host.Outcome State Fault Refusal) : Host.Outcome State Fault Refusal :=
  match o with
  | .next t => .next (f t)
  | .fault r => .fault r
  | .refused r => .refused r

/-- A frame whose sign bit, `b[2]` bit 7, is set to `n` (R68). -/
def withSign (f : Frame) (n : Bool) : Frame := { f with b2 := BitVec.ofBool n ++ f.b2.extractLsb' 0 7 }

/-- The rows of R118's table of phase transitions, each with its condition. -/
def TableRow (s t : State) : Prop :=
  (s.phase = 0#4 ∧ t.phase = 11#4 ∧ s.closed = false ∧ ∃ v, event s = .host (.write .word 0x000#12 v) ∧
    v.extractLsb' 0 8 ∈ [0x01#8, 0x03#8, 0x04#8, 0x08#8, 0x0C#8] ∧ Hits (v.extractLsb' 0 8) s) ∨
  (s.phase = 0#4 ∧ t.phase = 1#4 ∧ s.closed = false ∧ ∃ v, event s = .host (.write .word 0x000#12 v) ∧
    v.extractLsb' 0 8 ∈ [0x01#8, 0x03#8, 0x04#8, 0x08#8, 0x0C#8] ∧ ¬ Hits (v.extractLsb' 0 8) s) ∨
  (event s = .engine ∧
    ((s.phase = 1#4 ∧ t.phase = 2#4 ∧ s.tEnter + 250000 ≤ s.now) ∨
     (s.phase = 2#4 ∧ t.phase = 3#4 ∧ s.tEnter + 20000 ≤ s.now) ∨
     (s.phase = 3#4 ∧ t.phase = 4#4 ∧ s.tEnter + 40 ≤ s.now) ∨
     (s.phase = 4#4 ∧ t.phase = 5#4 ∧ s.tEnter + 10 ≤ s.now) ∨
     (s.phase = 5#4 ∧ t.phase = 6#4 ∧ ∃ c, c ≠ 0#64 ∧ PollEnds false s c) ∨
     (s.phase = 5#4 ∧ t.phase = 10#4 ∧ PollEnds false s 0#64) ∨
     (s.phase = 6#4 ∧ t.phase = 7#4 ∧ ∃ c, c ≠ 0#64 ∧ PollEnds true s c) ∨
     (s.phase = 6#4 ∧ t.phase = 10#4 ∧ PollEnds true s 0#64) ∨
     (s.phase = 7#4 ∧ t.phase = 8#4 ∧ ∃ c, c ≠ 0#64 ∧ PollEnds false s c) ∨
     (s.phase = 7#4 ∧ t.phase = 10#4 ∧ PollEnds false s 0#64) ∨
     (s.phase = 8#4 ∧ t.phase = 7#4 ∧ s.idx ≠ 39#6 ∧ ∃ c, c ≠ 0#64 ∧ PollEnds true s c) ∨
     (s.phase = 8#4 ∧ t.phase = 9#4 ∧ s.idx = 39#6 ∧ ∃ c, c ≠ 0#64 ∧ PollEnds true s c) ∨
     (s.phase = 8#4 ∧ t.phase = 10#4 ∧ PollEnds true s 0#64) ∨
     (s.phase = 9#4 ∧ t.phase = 10#4) ∨
     (s.phase = 10#4 ∧ t.phase = 11#4) ∨
     (s.phase = 11#4 ∧ t.phase = 0#4)))

end Sys2Proof.Stated

open Sys2Proof Sys2Proof.Machine Sys2Proof.Stated

/-! ## Encodings -/

/-- R62: the five opcodes are the five commands, and no other opcode is a command. -/
def Obligations.CommandOpcodesDecode : Prop :=
  (∀ r ∈ commandRows, decode (.cmd r.2) = .ok r.1) ∧
  ∀ op i, decode (.cmd op) = .ok i → (i, op) ∈ commandRows

/-- R64, R65: the close bit and the phase codes, and what they reject. -/
def Obligations.CloseAndPhaseCodesDecode : Prop :=
  (decode (.ctrl 1#1) = .ok .close ∧ decode (.ctrl 0#1) = .error .noOperation) ∧
  (∀ r ∈ phaseRows, decode (.phase r.2) = .ok r.1) ∧
  ∀ c : BitVec 4, 12 ≤ c.toNat → decode (.phase c) = .error (.reservedPhase c)

/-- Decoding an encoded instruction gives it back, and a word that decodes is the encoding of what it decodes to. -/
def Obligations.DecodeEncodeAgree : Prop :=
  (∀ i, decode (encode i) = .ok i) ∧ ∀ w i, decode w = .ok i → encode i = w

/-- The field rules of R61, R64 and R65 (`FetchWord.wf`) say which words are instructions. -/
def Obligations.FieldRulesDecideLegality : Prop :=
  ∀ w : FetchWord, w.wf = true ↔ ∃ i, decode w = .ok i

/-- The numbers of the outcomes, the failure kinds and the variants; a failure kind is never 1, 5, 6 or 7 (R66, R67,
R74). -/
def Obligations.CodesAreTheTables : Prop :=
  (resultCode .none = 0#3 ∧ resultCode .ok = 1#3 ∧ resultCode .timeoutAck = 2#3 ∧ resultCode .timeoutBit = 3#3 ∧
    resultCode .checksumMismatch = 4#3 ∧ resultCode .ioError = 5#3 ∧ resultCode .closedDriver = 6#3 ∧
    resultCode .illegalCommand = 7#3) ∧
  (failCode .none = 0#3 ∧ failCode .timeoutAck = 2#3 ∧ failCode .timeoutBit = 3#3 ∧ failCode .checksumMismatch = 4#3) ∧
  (variantCode .type11 = 0#2 ∧ variantCode .type21 = 1#2 ∧ variantCode .type22 = 2#2) ∧
  ∀ k, failCode k ∉ [1#3, 5#3, 6#3, 7#3]

/-! ## The step -/

/-- What a step runs while `rst` is not held: the next event of the list; an engine step runs the instruction the
`PHASE` register decodes to, a host write to `CMD` the one its low byte decodes to, a host write to `CTRL` with bit 0 set
runs CLOSE; each is `exec` at the state once the event is taken. While `rst` is held none of the three runs anything
(R210). -/
def Obligations.StepRunsDecodedInstruction : Prop :=
  (∀ s e es, s.inputs = e :: es → event s = e ∧ after s = { s with inputs := es }) ∧
  (∀ s i, s.rst = false → event s = .engine → decode (.phase s.phase) = .ok i → step s = exec i (after s)) ∧
  (∀ s v i, s.rst = false → event s = .host (.write .word 0x000#12 v) → decode (.cmd (v.extractLsb' 0 8)) = .ok i →
    step s = exec i (after s)) ∧
  (∀ s v, s.rst = false → event s = .host (.write .word 0x008#12 v) → v.getLsbD 0 = true →
    step s = exec .close (after s)) ∧
  ∀ s v, s.rst = true → (event s = .engine ∨ event s = .host (.write .word 0x000#12 v) ∨
    event s = .host (.write .word 0x008#12 v)) → step s = .next (after s)

/-- U14: an engine step in a phase code that no rule produces is refused by name. -/
def Obligations.ReservedPhaseIsRefused : Prop :=
  ∀ s, s.rst = false → event s = .engine → 12 ≤ s.phase.toNat → step s = .refused (.reservedPhase s.phase)

/-! ## Acceptance -/

/-- R101, with R102, R187, R188 and R189 for its branches: a word written to CMD in IDLE, `rst` not held. -/
def Obligations.CmdWriteInIdleIsAccepted : Prop :=
  ∀ (s : State) (v : Word), s.rst = false → event s = .host (.write .word 0x000#12 v) → s.phase = 0#4 →
    step s = .next
      (if v.extractLsb' 0 8 ∉ [0x01#8, 0x03#8, 0x04#8, 0x08#8, 0x0C#8] then ended .illegalCommand (after s)
       else if s.closed = true then ended .closedDriver (after s)
       else if Hits (v.extractLsb' 0 8) s then hitAccepted (v.extractLsb' 0 8) (after s)
       else if LineBad s then faulted (after s)
       else started (v.extractLsb' 0 8) (after s))

/-- A non-forced command within the interval completes its acceptance as a hit: nothing of the line, the buffer or the
cache changes. -/
def Obligations.CacheHitAnswersAtAcceptance : Prop :=
  ∀ s, ∀ r ∈ commandRows, s.phase = 0#4 → s.closed = false → Hits r.2 s → exec r.1 s = .next (hitAccepted r.2 s)

/-- R102: a command that is not a hit starts a transaction; a forced one always does. -/
def Obligations.FreshCommandStartsTransaction : Prop :=
  ∀ s, ∀ r ∈ commandRows, s.phase = 0#4 → s.closed = false → LineOk s →
    (r.1 = .capF ∨ s.cr.tsv = false ∨ s.cr.ts + 2000000 ≤ s.now) → exec r.1 s = .next (started r.2 s)

/-- R115: the throttle's comparison is strict and runs from the last COMMIT: at 1 999 999 µs a hit, at 2 000 000 µs a
transaction; and no acceptance changes `CR`. -/
def Obligations.ThrottleIsStrictAndKeepsCache : Prop :=
  ∀ s t, ∀ r ∈ commandRows, s.phase = 0#4 → s.closed = false → LineOk s → s.cr.tsv = true → r.1 ≠ .capF →
    exec r.1 s = .next t →
      (t.phase = 11#4 ↔ s.now < s.cr.ts + 2000000) ∧ (t.phase = 1#4 ↔ s.cr.ts + 2000000 ≤ s.now) ∧ t.cr = s.cr

/-- R213: a reset leaves a reading that no attempt made, and while it stands (`OnlyTheListedWriters`: until a COMMIT) a
legal command accepted performs a transaction, forced or not, at whatever time it is issued. -/
def Obligations.FirstCommandAfterResetTransacts : Prop :=
  ∀ s t strap, event s = .reset strap → step s = .next t →
    ∀ u, ∀ r ∈ commandRows, u.cr = t.cr → u.phase = 0#4 → u.closed = false → LineOk u →
      exec r.1 u = .next (started r.2 u)

/-- R190: a write to CMD or CTRL while busy only sets OVR, which stays set until reset. -/
def Obligations.WriteWhileBusyOnlySetsOverrun : Prop :=
  (∀ s v addr, s.rst = false → (addr = 0x000#12 ∨ addr = 0x008#12) → event s = .host (.write .word addr v) → s.phase ≠ 0#4 →
    step s = .next { after s with ovr := true }) ∧
  (∀ s i, i ∈ [Instr.cap, .capF, .rdt, .rdh, .rdb, .close] → s.phase ≠ 0#4 → exec i s = .next { s with ovr := true }) ∧
  ∀ s t, step s = .next t → s.ovr = true → ¬ resets s → t.ovr = true

/-- R188: CLOSE, what a closed driver answers, and that only reset reopens it. -/
def Obligations.ClosedDriverAnswersUntilReset : Prop :=
  (∀ s, s.phase = 0#4 → exec .close s = .next { s with closed := true, lineDir := .input }) ∧
  (∀ s v, s.rst = false → event s = .host (.write .word 0x008#12 v) → v.getLsbD 0 = true →
    step s = exec .close (after s)) ∧
  (∀ s, s.phase ≠ 0#4 → exec .close s = .next { s with ovr := true }) ∧
  (∀ s, ∀ r ∈ commandRows, s.phase = 0#4 → s.closed = true → exec r.1 s = .next (ended .closedDriver s)) ∧
  ∀ s t, step s = .next t → s.closed = true → ¬ resets s → t.closed = true

/-- R189: an opcode that is no command completes at once, closed or not. -/
def Obligations.IllegalOpcodeCompletesAtOnce : Prop :=
  ∀ (s : State) (v : Word), s.rst = false → event s = .host (.write .word 0x000#12 v) → s.phase = 0#4 →
    v.extractLsb' 0 8 ∉ [0x01#8, 0x03#8, 0x04#8, 0x08#8, 0x0C#8] → step s = .next (ended .illegalCommand (after s))

/-- R187: a step that issues a line primitive under a line fault is replaced by the IoError completion; every other
step is the same whatever the fault pin says. -/
def Obligations.LineFaultReplacesTheStep : Prop :=
  (∀ i s, LineBad s → IssuesPrimitive i s → exec i s = .next (faulted s)) ∧
  ∀ i s b, ¬ IssuesPrimitive i s →
    exec i { s with lineFault := b } = onNext (fun t => { t with lineFault := b }) (exec i s)

/-! ## The phases -/

/-- R65, R101: in IDLE an engine step waits. -/
def Obligations.IdleEngineStepWaits : Prop :=
  ∀ s, exec .idle s = .next s

/-- R84: a hold phase changes nothing before its duration has passed. -/
def Obligations.HoldWaitsForItsDuration : Prop :=
  ∀ s, ∀ r ∈ holdRows, s.now < s.tEnter + r.2 → exec r.1 s = .next s

/-- R103, R104, R105, R106: each hold phase waits, and at its end writes the pad and enters the next phase. -/
def Obligations.HoldPhasesWaitThenExit : Prop :=
  (∀ s, LineOk s → exec .stab s = .next
    (if s.now < s.tEnter + 250000 then s else { s with lineLvl := false, tEnter := s.now, phase := 2#4 })) ∧
  (∀ s, LineOk s → exec .wakeLo s = .next
    (if s.now < s.tEnter + 20000 then s else { s with lineLvl := true, tEnter := s.now, phase := 3#4 })) ∧
  (∀ s, LineOk s → exec .wakeHi s = .next
    (if s.now < s.tEnter + 40 then s else { s with lineDir := .input, tEnter := s.now, phase := 4#4 })) ∧
  ∀ s, exec .release s = .next
    (if s.now < s.tEnter + 10 then s else { s with ptCnt := 0#64, phase := 5#4 })

/-- R87: a matching sample below the bound adds one to the counter and the phase goes on. -/
def Obligations.MatchingSampleCounts : Prop :=
  ∀ s, ∀ r ∈ timerRows, LineOk s → PollGoesOn r.2.2 s →
    (∃ tm sub, exec r.1 s = .next { atTime tm sub s with ptCnt := s.ptCnt + 1#64 }) ∧
    (s.ptCnt + 1#64).toNat = s.ptCnt.toNat + 1

/-- R107, R108: the exits of the acknowledgement phases. -/
def Obligations.AcknowledgePhasesExit : Prop :=
  (∀ s c, LineOk s → PollEnds false s c → ∃ tm sub, exec .ackLo s = .next
    (if c = 0#64 then failed .timeoutAck 0#6 (atTime tm sub s)
     else { atTime tm sub s with ptCnt := 0#64, phase := 6#4 })) ∧
  ∀ s c, LineOk s → PollEnds true s c → ∃ tm sub, exec .ackHi s = .next
    (if c = 0#64 then failed .timeoutAck 0#6 (atTime tm sub s)
     else { atTime tm sub s with ptCnt := 0#64, idx := 0#6, phase := 7#4 })

/-- R109: the exit of BIT_LO: the failure with the pair's index, or the count stored at entry `2·IDX` and no other. -/
def Obligations.BitLoExitStoresLowCount : Prop :=
  ∀ s c, LineOk s → s.idx.toNat ≤ 39 → PollEnds false s c → ∃ tm sub,
    (c = 0#64 → exec .bitLo s = .next (failed .timeoutBit s.idx (atTime tm sub s))) ∧
    (c ≠ 0#64 → ∃ pm, (∀ k < 80, pmEntry pm k = if k = 2 * s.idx.toNat then c else pmEntry s.pm k) ∧
      exec .bitLo s = .next { atTime tm sub s with pm := pm, ptCnt := 0#64, phase := 8#4 })

/-- R110: the exit of BIT_HI: the failure with the pair's index, or the count stored at entry `2·IDX+1` and no other,
then the next pair, or ASSEMBLE after pair 39. -/
def Obligations.BitHiExitStoresHighCount : Prop :=
  ∀ s c, LineOk s → s.idx.toNat ≤ 39 → PollEnds true s c → ∃ tm sub,
    (c = 0#64 → exec .bitHi s = .next (failed .timeoutBit s.idx (atTime tm sub s))) ∧
    (c ≠ 0#64 → ∃ pm, (∀ k < 80, pmEntry pm k = if k = 2 * s.idx.toNat + 1 then c else pmEntry s.pm k) ∧
      (s.idx = 39#6 → exec .bitHi s = .next { atTime tm sub s with pm := pm, ptCnt := 0#64, phase := 9#4 }) ∧
      (s.idx ≠ 39#6 → exec .bitHi s = .next
        { atTime tm sub s with pm := pm, ptCnt := 0#64, idx := BitVec.ofNat 6 (s.idx.toNat + 1), phase := 7#4 }))

/-- R89: with `MAX_CYCLES` 0 or 1 every polling cycle of a fresh call ends in a timeout. -/
def Obligations.TinyMaxCyclesAlwaysTimesOut : Prop :=
  ∀ s, ∀ r ∈ timerRows, LineOk s → s.params.maxCycles.toNat ≤ 1 → s.ptCnt = 0#64 →
    ∃ tm sub, exec r.1 s = .next (failed (if r.1 = .ackLo ∨ r.1 = .ackHi then .timeoutAck else .timeoutBit)
      (if r.1 = .ackLo ∨ r.1 = .ackHi then 0#6 else s.idx) (atTime tm sub s))

/-- R93: a polling cycle takes exactly T_POLL, and while the timer runs no other event moves the time. The clock's
nanoseconds and what a time event does while the timer runs are the model's choices (logs 5, 6, 7). -/
def Obligations.PollingCyclesAreTPollApart : Prop :=
  (∀ s t, ∀ r ∈ timerRows, LineOk s → exec r.1 s = .next t →
    t.now * 1000 + t.nowSub = s.now * 1000 + s.nowSub + s.params.tPollNs) ∧
  ∀ s t, polling s = true → event s ≠ .engine → ¬ resets s → step s = .next t → t.now = s.now ∧ t.nowSub = s.nowSub

/-- R130, R131, R132, R133: ASSEMBLE writes the frame whose `F40[39 − i]` is 1 exactly when the high count of pair `i`
exceeds its low count, records a checksum mismatch, and goes to COMMIT. -/
def Obligations.AssembleDecidesPacksAndChecks : Prop :=
  ∀ s, ∃ f : Frame,
    (∀ i < 40, f.toF40.getLsbD (39 - i)
      = decide ((pmEntry s.pm (2 * i)).toNat < (pmEntry s.pm (2 * i + 1)).toNat)) ∧
    exec .assemble s = .next
      { s with
        rf := f
        txf := if f.b4.toNat = (f.b0.toNat + f.b1.toNat + f.b2.toNat + f.b3.toNat) % 256 then s.txf
          else { kind := .checksumMismatch, idx := 0#6 }
        phase := 10#4 }

/-- R132: an 8-bit adder that drops carries gives the same checksum. -/
def Obligations.ChecksumEqualsCarryDroppingSum : Prop :=
  ∀ f : Frame, checksumValid f = true ↔ f.b4 = f.b0 + f.b1 + f.b2 + f.b3

/-- R112: COMMIT replaces the six fields of `CR` together, whatever the outcome, and goes to RESPOND. In a state a run
can reach the frame is all zero after a timeout, and one whose checksum fails after a mismatch. -/
def Obligations.CommitReplacesTheReading : Prop :=
  ∀ s, ∃ n : BitVec 40, frameOfF40 n = s.rf ∧
    exec .commit s = .next
      { s with
        cr :=
          { tsv := true, ts := s.now, ok := decide (s.txf.kind = .none), frame := n, fkind := s.txf.kind
            fidx := s.txf.idx }
        phase := 11#4 } ∧
    (RunInv s → s.phase = 10#4 →
      (s.txf.kind = .timeoutAck ∨ s.txf.kind = .timeoutBit → n = 0#40) ∧
      (s.txf.kind = .checksumMismatch → checksumValid (frameOfF40 n) = false))

/-- R160: RESPOND delivers the reading, the fields `CMDL` selects decoded, or the failure, and returns to IDLE. -/
def Obligations.RespondDeliversTheOutcome : Prop :=
  (∀ s, s.cr.ok = true → exec .respond s = .next
    { s with
      result := .ok
      index := 0#6
      resHum :=
        if s.cmdl.getLsbD 3 = true then { hv := true, x10 := humX10 s.variant (frameOfF40 s.cr.frame) }
        else { hv := false, x10 := 0#16 }
      resTemp :=
        if s.cmdl.getLsbD 2 = true then
          { tv := true
            tneg := tempNeg s.variant (frameOfF40 s.cr.frame)
            x10 := tempX10 s.variant (frameOfF40 s.cr.frame) }
        else { tv := false, tneg := false, x10 := 0#16 }
      phase := 0#4 }) ∧
  ∀ s, s.cr.ok = false → ∃ r : Result, resultCode r = failCode s.cr.fkind ∧
    exec .respond s = .next { ended r s with index := s.cr.fidx, hit := s.hit }

/-- R185, R115 (d): a hit on a failed attempt reports the same kind and index again, and leaves the cache, the line and
the buffer as they were. -/
def Obligations.CachedFailureIsReportedAgain : Prop :=
  ∀ s, ∀ r ∈ commandRows, s.phase = 0#4 → s.closed = false → Hits r.2 s → s.cr.ok = false →
    ∃ t u, exec r.1 s = .next t ∧ exec .respond t = .next u ∧ u.hit = true ∧
      resultCode u.result = failCode s.cr.fkind ∧ u.index = s.cr.fidx ∧ u.phase = 0#4 ∧ u.cr = s.cr ∧
      u.lineDir = s.lineDir ∧ u.lineLvl = s.lineLvl ∧ u.pm = s.pm ∧ u.resHum.hv = false ∧ u.resTemp.tv = false

/-! ## Conversion -/

/-- R145: the integer results of each variant, as numbers; no variant can produce 0x8000. -/
def Obligations.ConversionPerVariant : Prop :=
  ∀ f : Frame,
    (humX10 .type11 f).toNat = f.b0.toNat * 10 ∧ (tempX10 .type11 f).toInt = (f.b2.toNat * 10 : Int) ∧
    tempNeg .type11 f = false ∧ (tempMag .type11 f).toNat = f.b2.toNat * 10 ∧
    ∀ v, v = .type21 ∨ v = .type22 →
      (humX10 v f).toNat = f.b0.toNat * 256 + f.b1.toNat ∧
      tempNeg v f = decide (128 ≤ f.b2.toNat) ∧
      (tempMag v f).toNat = (f.b2.toNat % 128) * 256 + f.b3.toNat ∧
      (tempX10 v f).toInt = (if 128 ≤ f.b2.toNat then -1 else 1) * ((f.b2.toNat % 128) * 256 + f.b3.toNat : Int) ∧
      tempX10 v f ≠ 0x8000#16

/-- R144 with D0 §8: setting the sign bit of a Type21 or Type22 frame negates its temperature and changes nothing
else; for Type11 the bit is magnitude and adds 128 °C. -/
def Obligations.SignBitNegatesTheTemperature : Prop :=
  ∀ f : Frame,
    (∀ v, v = .type21 ∨ v = .type22 →
      (tempX10 v (withSign f true)).toInt = -(tempX10 v (withSign f false)).toInt ∧
      humX10 v (withSign f true) = humX10 v (withSign f false)) ∧
    (tempX10 .type11 (withSign f true)).toInt = (tempX10 .type11 (withSign f false)).toInt + 1280

/-- R140 to R143: the decoder does not look at the checksum byte, Type11 ignores `b[1]` and `b[3]`, and Type21 and
Type22 convert alike. -/
def Obligations.IgnoredBytesDoNotMatter : Prop :=
  ∀ (f : Frame) (x y z : Byte),
    (∀ v, humX10 v { f with b4 := x } = humX10 v f ∧ tempX10 v { f with b4 := x } = tempX10 v f ∧
      tempNeg v { f with b4 := x } = tempNeg v f) ∧
    (humX10 .type11 { f with b1 := y, b3 := z } = humX10 .type11 f ∧
      tempX10 .type11 { f with b1 := y, b3 := z } = tempX10 .type11 f) ∧
    humX10 .type21 f = humX10 .type22 f ∧ tempX10 .type21 f = tempX10 .type22 f ∧
    tempNeg .type21 f = tempNeg .type22 f

/-- R147: the two registers show the views of `RES_HUM` and `RES_TEMP` in the instance's rendering, and the rendering
of `State.reset` is the correctly rounded one. In every rendering a view without its valid bit is 0, and the view of
the magnitude 0 is its sign and zeros. In the correctly rounded one, for a magnitude that is not 0, the view is a normal
binary32 number with the given sign whose value is within half a unit in the last place of `mag / 10`. With biased
exponent `e` and fraction `m` the value is `(2 ^ 23 + m) · 2 ^ (e − 150)`, so within half a unit says
`|10 · (2 ^ 23 + m) − mag · 2 ^ (150 − e)| ≤ 5`, and a tie would need an even significand.

The model's choice (log 18, DESIGN CHOICE, after U16): that `State.reset` has the correctly rounded rendering, and that
an invalid value and the magnitude 0 look alike in every rendering, supplied ones too. -/
def Obligations.Binary32ViewIsNearestTenth : Prop :=
  (∀ s, regRead s 0x030#12 = f32View s.params.rendering s.resHum.hv false s.resHum.x10 ∧
    regRead s 0x034#12 = f32View s.params.rendering s.resTemp.tv s.resTemp.tneg
      (if s.resTemp.tneg = true then 0#16 - s.resTemp.x10 else s.resTemp.x10)) ∧
  State.reset.params.rendering = .correctlyRounded ∧
  (∀ f neg mag, f32View f false neg mag = 0#32) ∧
  (∀ f neg, f32View f true neg 0#16 = BitVec.ofBool neg ++ 0#31) ∧
  ∀ neg (mag : BitVec 16), mag ≠ 0#16 →
    let w := f32View .correctlyRounded true neg mag
    let e := (w.extractLsb' 23 8).toNat
    let sig := 2 ^ 23 + (w.extractLsb' 0 23).toNat
    w.getLsbD 31 = neg ∧ 123 ≤ e ∧ e ≤ 139 ∧
      10 * sig ≤ mag.toNat * 2 ^ (150 - e) + 5 ∧ mag.toNat * 2 ^ (150 - e) ≤ 10 * sig + 5 ∧
      (10 * sig = mag.toNat * 2 ^ (150 - e) + 5 ∨ mag.toNat * 2 ^ (150 - e) = 10 * sig + 5 → sig % 2 = 0)

/-- R146: negative zero: `b[2] = 0x80`, `b[3] = 0x00` under Type21 or Type22; it is the only value with two
representations. R146 has its view from R147's correct rounding; that every rendering, supplied ones too, shows that view
is the model's reading (log 18, DESIGN CHOICE). -/
def Obligations.NegativeZeroKeepsItsSign : Prop :=
  (∀ (r : Rendering) (f : Frame) (v : SensorVariant), v = .type21 ∨ v = .type22 → f.b2 = 0x80#8 → f.b3 = 0x00#8 →
    tempX10 v f = 0#16 ∧ tempNeg v f = true ∧
      resTempF32 r { tv := true, tneg := tempNeg v f, x10 := tempX10 v f } = 0x80000000#32) ∧
  ∀ (f g : Frame) (v : SensorVariant), tempX10 v f = tempX10 v g → tempNeg v f ≠ tempNeg v g → tempX10 v f = 0#16

/-! ## The host's window -/

/-- R29: every field of STATUS, the reserved ones included. -/
def Obligations.StatusShowsItsFields : Prop :=
  ∀ s, let w := regRead s 0x004#12
    w.getLsbD 0 = decide (s.phase ≠ 0#4) ∧ w.getLsbD 1 = s.hit ∧ w.getLsbD 2 = s.ovr ∧ w.getLsbD 3 = s.closed ∧
    w.extractLsb' 4 3 = resultCode s.result ∧ w.getLsbD 7 = false ∧ w.extractLsb' 8 6 = s.index ∧
    w.extractLsb' 14 2 = 0#2 ∧ w.extractLsb' 16 4 = s.phase ∧ w.extractLsb' 20 6 = s.idx ∧ w.extractLsb' 26 6 = 0#6 ∧
    regRead State.reset 0x004#12 = 0#32

/-- R31 to R36, and the reads of CMD and CTRL (R28, R30): every field of the other registers. -/
def Obligations.RegistersShowTheirFields : Prop :=
  ∀ s,
    regRead s 0x000#12 = 0#32 ∧
    ((regRead s 0x008#12).getLsbD 0 = s.closed ∧ (regRead s 0x008#12).extractLsb' 1 31 = 0#31) ∧
    ((regRead s 0x00C#12).extractLsb' 0 2 = variantCode s.variant ∧ (regRead s 0x00C#12).extractLsb' 2 30 = 0#30) ∧
    regRead s 0x014#12 ++ regRead s 0x010#12 = s.params.maxCycles ∧
    regRead s 0x018#12
      = (frameOfF40 s.cr.frame).b1 ++ (frameOfF40 s.cr.frame).b2 ++ (frameOfF40 s.cr.frame).b3
        ++ (frameOfF40 s.cr.frame).b4 ∧
    regRead s 0x01C#12 = 0#24 ++ (frameOfF40 s.cr.frame).b0 ∧
    (let w := regRead s 0x020#12
     w.getLsbD 0 = s.cr.tsv ∧ w.getLsbD 1 = s.cr.ok ∧ w.extractLsb' 2 2 = 0#2 ∧
       w.extractLsb' 4 3 = failCode s.cr.fkind ∧ w.getLsbD 7 = false ∧ w.extractLsb' 8 6 = s.cr.fidx ∧
       w.extractLsb' 14 18 = 0#18) ∧
    (let w := regRead s 0x028#12
     w.extractLsb' 0 16 = s.resHum.x10 ∧ w.extractLsb' 16 15 = 0#15 ∧ w.getLsbD 31 = s.resHum.hv) ∧
    (let w := regRead s 0x02C#12
     w.extractLsb' 0 16 = s.resTemp.x10 ∧ w.extractLsb' 16 14 = 0#14 ∧ w.getLsbD 30 = s.resTemp.tneg ∧
       w.getLsbD 31 = s.resTemp.tv)

/-- R49: the window shows every entry of the capture buffer, low half at the lower offset, and is read-only. -/
def Obligations.BufferWindowShowsEveryEntry : Prop :=
  ∀ s, ∀ k < 80,
    regRead s (BitVec.ofNat 12 (0x400 + 8 * k)) = (pmEntry s.pm k).extractLsb' 0 32 ∧
    regRead s (BitVec.ofNat 12 (0x404 + 8 * k)) = (pmEntry s.pm k).extractLsb' 32 32 ∧
    ∀ v, (event s = .host (.write .word (BitVec.ofNat 12 (0x400 + 8 * k)) v) ∨
        event s = .host (.write .word (BitVec.ofNat 12 (0x404 + 8 * k)) v)) → step s = .next (after s)

/-- R50: reserved offsets read 0 and ignore writes. -/
def Obligations.ReservedOffsetsReadZeroIgnoreWrites : Prop :=
  ∀ (s : State) (addr : Offset), addr.toNat % 4 = 0 →
    (addr.toNat = 0x024 ∨ (0x038 ≤ addr.toNat ∧ addr.toNat ≤ 0x3FC) ∨ 0x680 ≤ addr.toNat) →
    regRead s addr = 0#32 ∧ ∀ v, event s = .host (.write .word addr v) → step s = .next (after s)

/-- R44: a read of an aligned word answers the register's value, on the model's own bus port (log 15), and changes
nothing else. That it also answers while `rst` is held is the model's reading (log 17, DEDUCED). -/
def Obligations.ReadChangesNothing : Prop :=
  ∀ (s : State) (addr : Offset), addr.toNat % 4 = 0 → event s = .host (.read .word addr) →
    step s = .next { after s with hostData := regRead (after s) addr }

/-- R45: every aligned word write, `rst` not held: to CMD, to CTRL, to anything else. -/
def Obligations.WritesActOnlyOnCmdAndCtrl : Prop :=
  ∀ (s : State) (addr : Offset) (v : Word), s.rst = false → addr.toNat % 4 = 0 → event s = .host (.write .word addr v) →
    (addr = 0x000#12 → s.phase ≠ 0#4 → step s = .next { after s with ovr := true }) ∧
    (addr = 0x000#12 → s.phase = 0#4 → ∀ r ∈ commandRows, v.extractLsb' 0 8 = r.2 → step s = exec r.1 (after s)) ∧
    (addr = 0x000#12 → s.phase = 0#4 → (∀ r ∈ commandRows, v.extractLsb' 0 8 ≠ r.2) →
      step s = .next (ended .illegalCommand (after s))) ∧
    (addr = 0x008#12 → s.phase ≠ 0#4 → step s = .next { after s with ovr := true }) ∧
    (addr = 0x008#12 → s.phase = 0#4 → v.getLsbD 0 = true →
      step s = .next { after s with closed := true, lineDir := .input }) ∧
    (addr = 0x008#12 → s.phase = 0#4 → v.getLsbD 0 = false → step s = .next (after s)) ∧
    (addr ≠ 0x000#12 → addr ≠ 0x008#12 → step s = .next (after s))

/-- R46: a host access that is not an aligned 32-bit word has no step. -/
def Obligations.OtherAccessesAreRefused : Prop :=
  ∀ (s : State) (size : AccessSize) (addr : Offset) (v : Word), size ≠ .word ∨ addr.toNat % 4 ≠ 0 →
    (event s = .host (.read size addr) → step s = .refused (.accessNotAlignedWord size addr)) ∧
    (event s = .host (.write size addr v) → step s = .refused (.accessNotAlignedWord size addr))

/-! ## Reset -/

/-- R39, R210, R211: `rst` going to 1 in any phase gives every element of the block its value of R39's table and latches
the strap; while it is held, whatever the agents do, every element keeps that value, and so it does at the step `rst` is
released. -/
def Obligations.ResetGivesEveryElementItsValue : Prop :=
  (∀ s strap v, event s = .reset strap → variantCode v = strap → ∃ t, step s = .next t ∧ t.rst = true ∧
    AtResetValues v t) ∧
  (∀ s t v, s.rst = true → AtResetValues v s → ¬ resets s → step s = .next t → AtResetValues v t) ∧
  ∀ s, RunInv s → s.rst = true → AtResetValues s.variant s

/-- What a reset leaves alone, by the model's choice (logs 4, 15, 17): the line's pins, the bus port, the parameters, what the
agents do next. And U7: a reset with the reserved strap is refused by name. -/
def Obligations.ResetTouchesOnlyTheBlock : Prop :=
  (∀ s t strap, event s = .reset strap → step s = .next t →
    t.lineIn = s.lineIn ∧ t.lineFault = s.lineFault ∧ t.hostData = s.hostData ∧ t.params = s.params ∧
      t.inputs = (after s).inputs ∧ t.freeIdx = (after s).freeIdx) ∧
  ∀ s, event s = .reset 3#2 → step s = .refused .reservedVariant

/-- R39 at `State.reset`: the registers the host reads after reset. -/
def Obligations.WindowAtReset : Prop :=
  regRead State.reset 0x004#12 = 0#32 ∧ regRead State.reset 0x008#12 = 0#32 ∧ regRead State.reset 0x018#12 = 0#32 ∧
  regRead State.reset 0x01C#12 = 0#32 ∧ regRead State.reset 0x020#12 = 0#32 ∧ regRead State.reset 0x028#12 = 0#32 ∧
  regRead State.reset 0x02C#12 = 0#32 ∧ regRead State.reset 0x030#12 = 0#32 ∧ regRead State.reset 0x034#12 = 0#32 ∧
  regRead State.reset 0x00C#12 = 0#30 ++ variantCode Config.strap ∧
  ∀ k < 80, pmEntry State.reset.pm k = 0#64

/-! ## The whole machine -/

/-- The invariant holds at reset. -/
def Obligations.InvariantAtReset : Prop :=
  RunInv State.reset

/-- Every step from a state that meets the invariant gives a state that meets it. -/
def Obligations.EveryStepKeepsInvariant : Prop :=
  ∀ s t, RunInv s → step s = .next t → RunInv t

/-- From a state that meets the invariant, every event the model has a step for gives a next state. That a read answers
while `rst` is held too is the model's reading (log 17). -/
def Obligations.LegalEventsNeverStop : Prop :=
  ∀ s, RunInv s → nextEventLegal s = true → ∃ t, step s = .next t

/-- R118: the phase changes only by a row of the table, by reset, or by IoError. -/
def Obligations.PhaseChangesFollowTheTable : Prop :=
  ∀ s t, step s = .next t → t.phase ≠ s.phase →
    TableRow s t ∨ (resets s ∧ t.phase = 0#4) ∨
      (LineBad s ∧ s.phase ∈ [1#4, 2#4, 3#4, 5#4, 6#4, 7#4, 8#4] ∧ event s = .engine ∧ t.phase = 0#4 ∧
        t.result = .ioError)

/-- R14, R18, R19, R21, R22, R26, R27: the reading, the frame, the buffer, the line latches, the flags and the
configuration have only the writers their rules list. -/
def Obligations.OnlyTheListedWriters : Prop :=
  ∀ s t, step s = .next t → ¬ resets s →
    (t.cr ≠ s.cr → event s = .engine ∧ s.phase = 10#4) ∧
    (t.rf ≠ s.rf → (event s = .engine ∧ s.phase = 9#4) ∨ (s.phase = 0#4 ∧ t.phase = 1#4)) ∧
    (t.pm ≠ s.pm → (event s = .engine ∧ (s.phase = 7#4 ∨ s.phase = 8#4)) ∨ (s.phase = 0#4 ∧ t.phase = 1#4)) ∧
    (t.lineDir ≠ s.lineDir → (event s = .engine ∧ s.phase = 3#4) ∨ (s.phase = 0#4 ∧ t.phase = 1#4) ∨
      (s.phase = 0#4 ∧ ∃ v, event s = .host (.write .word 0x008#12 v))) ∧
    (t.lineLvl ≠ s.lineLvl → (event s = .engine ∧ (s.phase = 1#4 ∨ s.phase = 2#4)) ∨ (s.phase = 0#4 ∧ t.phase = 1#4)) ∧
    (t.closed ≠ s.closed → s.phase = 0#4 ∧ t.closed = true ∧ ∃ v, event s = .host (.write .word 0x008#12 v)) ∧
    (t.ovr ≠ s.ovr → s.phase ≠ 0#4 ∧ t.ovr = true ∧
      ∃ v, event s = .host (.write .word 0x000#12 v) ∨ event s = .host (.write .word 0x008#12 v)) ∧
    (t.hit ≠ s.hit → (s.phase = 0#4 ∧ WritesCmd s ∧ (t.hit = true ↔ t.phase = 11#4)) ∨
      (event s = .engine ∧ LineBad s ∧ t.hit = false ∧ t.phase = 0#4 ∧ t.result = .ioError)) ∧
    t.variant = s.variant ∧ t.params = s.params

/-- R12, R13, R15, R16, R20: the sequencer's own registers have only the writers their rules list, and get only the
values they name; R23, R24: the outcome and the results are written only when a command completes. -/
def Obligations.SequencerAndOutcomeWriters : Prop :=
  ∀ s t, step s = .next t → ¬ resets s →
    (t.idx ≠ s.idx → event s = .engine ∧ t.phase = 7#4 ∧
      ((s.phase = 6#4 ∧ t.idx = 0#6) ∨ (s.phase = 8#4 ∧ s.idx ≠ 39#6 ∧ t.idx = s.idx + 1#6))) ∧
    (t.cmdl ≠ s.cmdl → s.phase = 0#4 ∧ (t.phase = 11#4 ∨ t.phase = 1#4) ∧
      ∃ v, event s = .host (.write .word 0x000#12 v) ∧ t.cmdl = v.extractLsb' 0 8) ∧
    (t.ptCnt ≠ s.ptCnt →
      (event s = .engine ∧ s.phase ∈ [5#4, 6#4, 7#4, 8#4] ∧ t.phase = s.phase ∧ t.ptCnt = s.ptCnt + 1#64) ∨
      (event s = .engine ∧ s.phase ∈ [4#4, 5#4, 6#4, 7#4, 8#4] ∧ t.phase ≠ s.phase ∧ t.ptCnt = 0#64) ∨
      ((event s = .engine ∨ WritesCmd s) ∧ LineBad s ∧ t.phase = 0#4 ∧ t.result = .ioError ∧ t.ptCnt = 0#64)) ∧
    (t.tEnter ≠ s.tEnter → t.tEnter = s.now ∧ t.phase = s.phase + 1#4 ∧
      ((s.phase = 0#4 ∧ WritesCmd s) ∨ (event s = .engine ∧ s.phase ∈ [1#4, 2#4, 3#4]))) ∧
    (t.txf ≠ s.txf → (s.phase = 0#4 ∧ t.phase = 1#4 ∧ t.txf = { kind := .none, idx := 0#6 }) ∨
      (event s = .engine ∧ s.phase ∈ [5#4, 6#4, 7#4, 8#4, 9#4] ∧ t.phase = 10#4 ∧ t.txf.kind ≠ .none)) ∧
    (t.result ≠ s.result ∨ t.index ≠ s.index ∨ t.resHum ≠ s.resHum ∨ t.resTemp ≠ s.resTemp → t.phase = 0#4 ∧
      ((event s = .engine ∧ s.phase = 11#4) ∨
       (event s = .engine ∧ LineBad s ∧ t.result = .ioError) ∨
       (s.phase = 0#4 ∧ WritesCmd s ∧ t.result ∈ [.ioError, .closedDriver, .illegalCommand])))

/-- R80, R83, R85: each port has only the writers its meaning names: a line event writes `line_in`, a fault event
`line_fault`, and each nothing else; `rst` follows the reset and release events; a read alone writes the model's own bus
port (log 15). -/
def Obligations.EachPortHasItsOwnEvent : Prop :=
  (∀ s l, event s = .line l → step s = .next { after s with lineIn := l }) ∧
  (∀ s f, event s = .fault f → step s = .next { after s with lineFault := f }) ∧
  (∀ s, event s = .release → step s = .next { after s with rst := false }) ∧
  ∀ s t, step s = .next t →
    (t.lineIn ≠ s.lineIn → event s = .line t.lineIn) ∧
    (t.lineFault ≠ s.lineFault → event s = .fault t.lineFault) ∧
    (t.rst ≠ s.rst → (t.rst = true ∧ resets s) ∨ (t.rst = false ∧ event s = .release)) ∧
    (t.hostData ≠ s.hostData → ∃ addr, event s = .host (.read .word addr) ∧ t.hostData = regRead s addr)

/-- R51 (b), R23: outside COMMIT's and RESPOND's steps and immediate completions, the outcome a host has read stays:
while the block is idle only a write to CMD or CTRL, or reset, changes anything the host reads. -/
def Obligations.IdleResultsAreStable : Prop :=
  ∀ s t, step s = .next t → s.phase = 0#4 → ¬ resets s →
    (∀ v, event s ≠ .host (.write .word 0x000#12 v) ∧ event s ≠ .host (.write .word 0x008#12 v)) →
    ∀ addr, regRead t addr = regRead s addr

/-- R114: in the critical section (and in every phase but IDLE) a host access changes nothing but OVR and the bus data,
and what the engine then does does not depend on either. -/
def Obligations.CriticalSectionIgnoresTheHost : Prop :=
  (∀ s t a, event s = .host a → s.phase ≠ 0#4 → step s = .next t →
    ∃ o d, t = { after s with ovr := o, hostData := d }) ∧
  ∀ s o d, ∀ r ∈ phaseRows,
    exec r.1 { s with ovr := o, hostData := d } = onNext (fun t => { t with ovr := o, hostData := d }) (exec r.1 s)

/-- R17: time never runs back, but for a reset, and outside the pulse-timer phases, `rst` not held, a time event adds its
amount. -/
def Obligations.TimeOnlyMovesForward : Prop :=
  (∀ s t, step s = .next t → ¬ resets s → s.now ≤ t.now) ∧
  ∀ s us, s.rst = false → event s = .tick us → polling s = false → step s = .next { after s with now := s.now + us }

/-! ## Small steps and big steps -/

/-- R87: the small steps of a pulse-timer phase give the result of `ExpectPulse` and take the same samples: they reach
a state in the same phase, nothing but the counter, the time and the pin changed, whose next sample ends the timer with
that result and leaves the rest of the stream. -/
def Obligations.PollingComputesExpectPulse : Prop :=
  ∀ s xs c rest, ∀ r ∈ timerRows, s.rst = false → s.phase = r.2.1 → LineOk s → s.ptCnt = 0#64 →
    expectPulse r.2.2 s.params.maxCycles.toNat 0 xs = some (c, rest) →
    ∃ n tm sub pin x, runSamples xs s
        = runSamples (x :: rest) { s with ptCnt := n, now := tm, nowSub := sub, lineIn := pin } ∧
      PollEnds r.2.2 { s with ptCnt := n, now := tm, nowSub := sub, lineIn := x } (BitVec.ofNat 64 c) ∧
      (BitVec.ofNat 64 c).toNat = c

/-- R86, R92: a run of `n` matching samples shorter than `MAX_CYCLES` (or no matching sample at all) followed by one that
differs gives `n` and takes `n + 1` samples; `MAX_CYCLES` matching samples in a row give 0 and no further one is taken. -/
def Obligations.ExpectPulseCountsTheRun : Prop :=
  ∀ (level : Bool) (maxCycles n : Nat) (xs : List Bool),
    (n = 0 ∨ n < maxCycles →
      expectPulse level maxCycles 0 (List.replicate n level ++ (!level) :: xs) = some (n, xs)) ∧
    (1 ≤ maxCycles → expectPulse level maxCycles 0 (List.replicate maxCycles level ++ xs) = some (0, xs))

/-- R100, steps 5 and 6: from the entry to ACK_LO of a transaction the sequencer's polling cycles compute what the
big-step contract computes from the same samples, leave the same samples, and go to ASSEMBLE or COMMIT as it says. -/
def Obligations.AcquisitionMeetsContract : Prop :=
  ∀ s xs a, s.rst = false → s.phase = 5#4 → LineOk s → s.ptCnt = 0#64 → s.pm = pmZero → s.txf = Txf.clear →
    acquire s.params.maxCycles.toNat xs = some a →
    ∃ t, runSamples xs s = some (t, a.rest) ∧ t.pm = a.pm ∧ t.txf = a.txf ∧
      t.phase = (if a.txf.kind = .none then 9#4 else 10#4) ∧ t.rf = s.rf ∧ t.cr = s.cr ∧ t.cmdl = s.cmdl ∧
      t.lineDir = s.lineDir ∧ t.lineLvl = s.lineLvl ∧ t.result = s.result ∧ t.index = s.index ∧ t.rst = s.rst

/-- R100, steps 5 to 11: the reading a fresh capture commits is the contract's, stamped with the time COMMIT is
reached. -/
def Obligations.CaptureCommitsTheContractsReading : Prop :=
  ∀ s xs a, s.rst = false → s.phase = 5#4 → LineOk s → s.ptCnt = 0#64 → s.pm = pmZero → s.txf = Txf.clear → s.rf = Frame.zero →
    acquire s.params.maxCycles.toNat xs = some a →
    ∃ t u, runSamples xs s = some (t, a.rest) ∧ finishCapture t = .next u ∧ u.phase = 11#4 ∧
      u.cr = captured a t.now

/-- R118, R119: the sampling of a transaction ends within `82 · MAX_CYCLES` polling cycles, whatever the line does. -/
def Obligations.SamplingEndsWithinBound : Prop :=
  ∀ s xs, RunInv s → LineOk s → 1 ≤ xs.length → 82 * s.params.maxCycles.toNat ≤ xs.length →
    ∃ t rest, runSamples xs s = some (t, rest) ∧ polling t = false
end

