-- ==== Sys2Proof/Laws/Decode.lean ====
section
/-! SUPPORT. What each decoder can answer: a word is an instruction exactly when it is that instruction's encoding. -/

namespace Sys2Proof

/-- An opcode that decodes is one of the five of R62. -/
theorem decodeCmd_ok_cases {op : Byte} {i : Instr} (h : decodeCmd op = .ok i) :
    (op = 0x01#8 ∧ i = .cap) ∨ (op = 0x03#8 ∧ i = .capF) ∨ (op = 0x04#8 ∧ i = .rdt) ∨ (op = 0x08#8 ∧ i = .rdh)
      ∨ (op = 0x0C#8 ∧ i = .rdb) := by
  unfold decodeCmd at h
  split at h <;> first | (cases h; done) | skip
  all_goals
    rename_i hn
    have hop := BitVec.eq_of_toNat_eq (x := op) (y := BitVec.ofNat 8 op.toNat) (by simp)
    rw [hn] at hop
    injection h with h
    subst h hop
    decide

/-- A `CTRL` bit that decodes is the close request of R64. -/
theorem decodeCtrl_ok_cases {b : BitVec 1} {i : Instr} (h : decodeCtrl b = .ok i) : b = 1#1 ∧ i = .close := by
  unfold decodeCtrl at h
  split at h
  · rename_i hn
    exact ⟨BitVec.eq_of_toNat_eq hn, by injection h with h; exact h.symm⟩
  · cases h

/-- A rejected opcode is rejected by the name `illegalOpcode`. -/
theorem decodeCmd_error {op : Byte} {r : DecodeError} (h : decodeCmd op = .error r) : r = .illegalOpcode op := by
  unfold decodeCmd at h
  split at h <;> first | (cases h; done) | (injection h with h; exact h.symm)

/-- A phase code below 12 decodes. -/
theorem decodePhase_isOk : ∀ c : BitVec 4, c.toNat < 12 → (decodePhase c).isOk = true := by decide

/-- A rejected phase code is rejected by the name `reservedPhase`, and is 12 to 15. -/
theorem decodePhase_error {c : BitVec 4} {r : DecodeError} (h : decodePhase c = .error r) :
    r = .reservedPhase c ∧ 12 ≤ c.toNat := by
  have hc : 12 ≤ c.toNat := by
    refine Nat.le_of_not_lt fun hlt => ?_
    have := decodePhase_isOk c hlt
    rw [h] at this
    cases this
  unfold decodePhase at h
  split at h <;> first | (cases h; done) | (injection h with h; exact ⟨h.symm, hc⟩)

/-- A legal phase code decodes to the instruction whose encoding it is. -/
theorem decodePhase_ok_encode {c : BitVec 4} {i : Instr} (h : decodePhase c = .ok i) : encode i = .phase c := by
  unfold decodePhase at h
  split at h <;> first | (cases h; done) | skip
  all_goals
    rename_i hn
    injection h with h
    subst h
    exact congrArg FetchWord.phase (BitVec.eq_of_toNat_eq hn.symm)

end Sys2Proof
end

