-- ==== Sys2Proof/Laws/State.lean ====
section
/-! SUPPORT. One lemma per field for each shared update of the state: what the update leaves in that field. -/

namespace Sys2Proof.Machine


/-! ## setDirection -/

@[simp] theorem setDirection_phase (d : Dir) (s : State) : (setDirection d s).phase = s.phase := rfl
@[simp] theorem setDirection_idx (d : Dir) (s : State) : (setDirection d s).idx = s.idx := rfl
@[simp] theorem setDirection_cmdl (d : Dir) (s : State) : (setDirection d s).cmdl = s.cmdl := rfl
@[simp] theorem setDirection_lineDir (d : Dir) (s : State) : (setDirection d s).lineDir = d := rfl
@[simp] theorem setDirection_lineLvl (d : Dir) (s : State) : (setDirection d s).lineLvl = s.lineLvl := rfl
@[simp] theorem setDirection_ptCnt (d : Dir) (s : State) : (setDirection d s).ptCnt = s.ptCnt := rfl
@[simp] theorem setDirection_tEnter (d : Dir) (s : State) : (setDirection d s).tEnter = s.tEnter := rfl
@[simp] theorem setDirection_now (d : Dir) (s : State) : (setDirection d s).now = s.now := rfl
@[simp] theorem setDirection_pm (d : Dir) (s : State) : (setDirection d s).pm = s.pm := rfl
@[simp] theorem setDirection_rf (d : Dir) (s : State) : (setDirection d s).rf = s.rf := rfl
@[simp] theorem setDirection_txf (d : Dir) (s : State) : (setDirection d s).txf = s.txf := rfl
@[simp] theorem setDirection_cr (d : Dir) (s : State) : (setDirection d s).cr = s.cr := rfl
@[simp] theorem setDirection_hit (d : Dir) (s : State) : (setDirection d s).hit = s.hit := rfl
@[simp] theorem setDirection_ovr (d : Dir) (s : State) : (setDirection d s).ovr = s.ovr := rfl
@[simp] theorem setDirection_closed (d : Dir) (s : State) : (setDirection d s).closed = s.closed := rfl
@[simp] theorem setDirection_result (d : Dir) (s : State) : (setDirection d s).result = s.result := rfl
@[simp] theorem setDirection_index (d : Dir) (s : State) : (setDirection d s).index = s.index := rfl
@[simp] theorem setDirection_resHum (d : Dir) (s : State) : (setDirection d s).resHum = s.resHum := rfl
@[simp] theorem setDirection_resTemp (d : Dir) (s : State) : (setDirection d s).resTemp = s.resTemp := rfl
@[simp] theorem setDirection_variant (d : Dir) (s : State) : (setDirection d s).variant = s.variant := rfl
@[simp] theorem setDirection_lineIn (d : Dir) (s : State) : (setDirection d s).lineIn = s.lineIn := rfl
@[simp] theorem setDirection_lineFault (d : Dir) (s : State) : (setDirection d s).lineFault = s.lineFault := rfl
@[simp] theorem setDirection_rst (d : Dir) (s : State) : (setDirection d s).rst = s.rst := rfl
@[simp] theorem setDirection_hostData (d : Dir) (s : State) : (setDirection d s).hostData = s.hostData := rfl
@[simp] theorem setDirection_params (d : Dir) (s : State) : (setDirection d s).params = s.params := rfl
@[simp] theorem setDirection_nowSub (d : Dir) (s : State) : (setDirection d s).nowSub = s.nowSub := rfl
@[simp] theorem setDirection_inputs (d : Dir) (s : State) : (setDirection d s).inputs = s.inputs := rfl
@[simp] theorem setDirection_freeIdx (d : Dir) (s : State) : (setDirection d s).freeIdx = s.freeIdx := rfl

/-! ## setLevel -/

@[simp] theorem setLevel_phase (v : Bool) (s : State) : (setLevel v s).phase = s.phase := rfl
@[simp] theorem setLevel_idx (v : Bool) (s : State) : (setLevel v s).idx = s.idx := rfl
@[simp] theorem setLevel_cmdl (v : Bool) (s : State) : (setLevel v s).cmdl = s.cmdl := rfl
@[simp] theorem setLevel_lineDir (v : Bool) (s : State) : (setLevel v s).lineDir = s.lineDir := rfl
@[simp] theorem setLevel_lineLvl (v : Bool) (s : State) : (setLevel v s).lineLvl = v := rfl
@[simp] theorem setLevel_ptCnt (v : Bool) (s : State) : (setLevel v s).ptCnt = s.ptCnt := rfl
@[simp] theorem setLevel_tEnter (v : Bool) (s : State) : (setLevel v s).tEnter = s.tEnter := rfl
@[simp] theorem setLevel_now (v : Bool) (s : State) : (setLevel v s).now = s.now := rfl
@[simp] theorem setLevel_pm (v : Bool) (s : State) : (setLevel v s).pm = s.pm := rfl
@[simp] theorem setLevel_rf (v : Bool) (s : State) : (setLevel v s).rf = s.rf := rfl
@[simp] theorem setLevel_txf (v : Bool) (s : State) : (setLevel v s).txf = s.txf := rfl
@[simp] theorem setLevel_cr (v : Bool) (s : State) : (setLevel v s).cr = s.cr := rfl
@[simp] theorem setLevel_hit (v : Bool) (s : State) : (setLevel v s).hit = s.hit := rfl
@[simp] theorem setLevel_ovr (v : Bool) (s : State) : (setLevel v s).ovr = s.ovr := rfl
@[simp] theorem setLevel_closed (v : Bool) (s : State) : (setLevel v s).closed = s.closed := rfl
@[simp] theorem setLevel_result (v : Bool) (s : State) : (setLevel v s).result = s.result := rfl
@[simp] theorem setLevel_index (v : Bool) (s : State) : (setLevel v s).index = s.index := rfl
@[simp] theorem setLevel_resHum (v : Bool) (s : State) : (setLevel v s).resHum = s.resHum := rfl
@[simp] theorem setLevel_resTemp (v : Bool) (s : State) : (setLevel v s).resTemp = s.resTemp := rfl
@[simp] theorem setLevel_variant (v : Bool) (s : State) : (setLevel v s).variant = s.variant := rfl
@[simp] theorem setLevel_lineIn (v : Bool) (s : State) : (setLevel v s).lineIn = s.lineIn := rfl
@[simp] theorem setLevel_lineFault (v : Bool) (s : State) : (setLevel v s).lineFault = s.lineFault := rfl
@[simp] theorem setLevel_rst (v : Bool) (s : State) : (setLevel v s).rst = s.rst := rfl
@[simp] theorem setLevel_hostData (v : Bool) (s : State) : (setLevel v s).hostData = s.hostData := rfl
@[simp] theorem setLevel_params (v : Bool) (s : State) : (setLevel v s).params = s.params := rfl
@[simp] theorem setLevel_nowSub (v : Bool) (s : State) : (setLevel v s).nowSub = s.nowSub := rfl
@[simp] theorem setLevel_inputs (v : Bool) (s : State) : (setLevel v s).inputs = s.inputs := rfl
@[simp] theorem setLevel_freeIdx (v : Bool) (s : State) : (setLevel v s).freeIdx = s.freeIdx := rfl

/-! ## enterHold -/

@[simp] theorem enterHold_phase (ph : BitVec 4) (s : State) : (enterHold ph s).phase = ph := rfl
@[simp] theorem enterHold_idx (ph : BitVec 4) (s : State) : (enterHold ph s).idx = s.idx := rfl
@[simp] theorem enterHold_cmdl (ph : BitVec 4) (s : State) : (enterHold ph s).cmdl = s.cmdl := rfl
@[simp] theorem enterHold_lineDir (ph : BitVec 4) (s : State) : (enterHold ph s).lineDir = s.lineDir := rfl
@[simp] theorem enterHold_lineLvl (ph : BitVec 4) (s : State) : (enterHold ph s).lineLvl = s.lineLvl := rfl
@[simp] theorem enterHold_ptCnt (ph : BitVec 4) (s : State) : (enterHold ph s).ptCnt = s.ptCnt := rfl
@[simp] theorem enterHold_tEnter (ph : BitVec 4) (s : State) : (enterHold ph s).tEnter = s.now := rfl
@[simp] theorem enterHold_now (ph : BitVec 4) (s : State) : (enterHold ph s).now = s.now := rfl
@[simp] theorem enterHold_pm (ph : BitVec 4) (s : State) : (enterHold ph s).pm = s.pm := rfl
@[simp] theorem enterHold_rf (ph : BitVec 4) (s : State) : (enterHold ph s).rf = s.rf := rfl
@[simp] theorem enterHold_txf (ph : BitVec 4) (s : State) : (enterHold ph s).txf = s.txf := rfl
@[simp] theorem enterHold_cr (ph : BitVec 4) (s : State) : (enterHold ph s).cr = s.cr := rfl
@[simp] theorem enterHold_hit (ph : BitVec 4) (s : State) : (enterHold ph s).hit = s.hit := rfl
@[simp] theorem enterHold_ovr (ph : BitVec 4) (s : State) : (enterHold ph s).ovr = s.ovr := rfl
@[simp] theorem enterHold_closed (ph : BitVec 4) (s : State) : (enterHold ph s).closed = s.closed := rfl
@[simp] theorem enterHold_result (ph : BitVec 4) (s : State) : (enterHold ph s).result = s.result := rfl
@[simp] theorem enterHold_index (ph : BitVec 4) (s : State) : (enterHold ph s).index = s.index := rfl
@[simp] theorem enterHold_resHum (ph : BitVec 4) (s : State) : (enterHold ph s).resHum = s.resHum := rfl
@[simp] theorem enterHold_resTemp (ph : BitVec 4) (s : State) : (enterHold ph s).resTemp = s.resTemp := rfl
@[simp] theorem enterHold_variant (ph : BitVec 4) (s : State) : (enterHold ph s).variant = s.variant := rfl
@[simp] theorem enterHold_lineIn (ph : BitVec 4) (s : State) : (enterHold ph s).lineIn = s.lineIn := rfl
@[simp] theorem enterHold_lineFault (ph : BitVec 4) (s : State) : (enterHold ph s).lineFault = s.lineFault := rfl
@[simp] theorem enterHold_rst (ph : BitVec 4) (s : State) : (enterHold ph s).rst = s.rst := rfl
@[simp] theorem enterHold_hostData (ph : BitVec 4) (s : State) : (enterHold ph s).hostData = s.hostData := rfl
@[simp] theorem enterHold_params (ph : BitVec 4) (s : State) : (enterHold ph s).params = s.params := rfl
@[simp] theorem enterHold_nowSub (ph : BitVec 4) (s : State) : (enterHold ph s).nowSub = s.nowSub := rfl
@[simp] theorem enterHold_inputs (ph : BitVec 4) (s : State) : (enterHold ph s).inputs = s.inputs := rfl
@[simp] theorem enterHold_freeIdx (ph : BitVec 4) (s : State) : (enterHold ph s).freeIdx = s.freeIdx := rfl

/-! ## enterPoll -/

@[simp] theorem enterPoll_phase (ph : BitVec 4) (s : State) : (enterPoll ph s).phase = ph := rfl
@[simp] theorem enterPoll_idx (ph : BitVec 4) (s : State) : (enterPoll ph s).idx = s.idx := rfl
@[simp] theorem enterPoll_cmdl (ph : BitVec 4) (s : State) : (enterPoll ph s).cmdl = s.cmdl := rfl
@[simp] theorem enterPoll_lineDir (ph : BitVec 4) (s : State) : (enterPoll ph s).lineDir = s.lineDir := rfl
@[simp] theorem enterPoll_lineLvl (ph : BitVec 4) (s : State) : (enterPoll ph s).lineLvl = s.lineLvl := rfl
@[simp] theorem enterPoll_ptCnt (ph : BitVec 4) (s : State) : (enterPoll ph s).ptCnt = 0#64 := rfl
@[simp] theorem enterPoll_tEnter (ph : BitVec 4) (s : State) : (enterPoll ph s).tEnter = s.tEnter := rfl
@[simp] theorem enterPoll_now (ph : BitVec 4) (s : State) : (enterPoll ph s).now = s.now := rfl
@[simp] theorem enterPoll_pm (ph : BitVec 4) (s : State) : (enterPoll ph s).pm = s.pm := rfl
@[simp] theorem enterPoll_rf (ph : BitVec 4) (s : State) : (enterPoll ph s).rf = s.rf := rfl
@[simp] theorem enterPoll_txf (ph : BitVec 4) (s : State) : (enterPoll ph s).txf = s.txf := rfl
@[simp] theorem enterPoll_cr (ph : BitVec 4) (s : State) : (enterPoll ph s).cr = s.cr := rfl
@[simp] theorem enterPoll_hit (ph : BitVec 4) (s : State) : (enterPoll ph s).hit = s.hit := rfl
@[simp] theorem enterPoll_ovr (ph : BitVec 4) (s : State) : (enterPoll ph s).ovr = s.ovr := rfl
@[simp] theorem enterPoll_closed (ph : BitVec 4) (s : State) : (enterPoll ph s).closed = s.closed := rfl
@[simp] theorem enterPoll_result (ph : BitVec 4) (s : State) : (enterPoll ph s).result = s.result := rfl
@[simp] theorem enterPoll_index (ph : BitVec 4) (s : State) : (enterPoll ph s).index = s.index := rfl
@[simp] theorem enterPoll_resHum (ph : BitVec 4) (s : State) : (enterPoll ph s).resHum = s.resHum := rfl
@[simp] theorem enterPoll_resTemp (ph : BitVec 4) (s : State) : (enterPoll ph s).resTemp = s.resTemp := rfl
@[simp] theorem enterPoll_variant (ph : BitVec 4) (s : State) : (enterPoll ph s).variant = s.variant := rfl
@[simp] theorem enterPoll_lineIn (ph : BitVec 4) (s : State) : (enterPoll ph s).lineIn = s.lineIn := rfl
@[simp] theorem enterPoll_lineFault (ph : BitVec 4) (s : State) : (enterPoll ph s).lineFault = s.lineFault := rfl
@[simp] theorem enterPoll_rst (ph : BitVec 4) (s : State) : (enterPoll ph s).rst = s.rst := rfl
@[simp] theorem enterPoll_hostData (ph : BitVec 4) (s : State) : (enterPoll ph s).hostData = s.hostData := rfl
@[simp] theorem enterPoll_params (ph : BitVec 4) (s : State) : (enterPoll ph s).params = s.params := rfl
@[simp] theorem enterPoll_nowSub (ph : BitVec 4) (s : State) : (enterPoll ph s).nowSub = s.nowSub := rfl
@[simp] theorem enterPoll_inputs (ph : BitVec 4) (s : State) : (enterPoll ph s).inputs = s.inputs := rfl
@[simp] theorem enterPoll_freeIdx (ph : BitVec 4) (s : State) : (enterPoll ph s).freeIdx = s.freeIdx := rfl

/-! ## overrun -/

@[simp] theorem overrun_phase (s : State) : (overrun s).phase = s.phase := rfl
@[simp] theorem overrun_idx (s : State) : (overrun s).idx = s.idx := rfl
@[simp] theorem overrun_cmdl (s : State) : (overrun s).cmdl = s.cmdl := rfl
@[simp] theorem overrun_lineDir (s : State) : (overrun s).lineDir = s.lineDir := rfl
@[simp] theorem overrun_lineLvl (s : State) : (overrun s).lineLvl = s.lineLvl := rfl
@[simp] theorem overrun_ptCnt (s : State) : (overrun s).ptCnt = s.ptCnt := rfl
@[simp] theorem overrun_tEnter (s : State) : (overrun s).tEnter = s.tEnter := rfl
@[simp] theorem overrun_now (s : State) : (overrun s).now = s.now := rfl
@[simp] theorem overrun_pm (s : State) : (overrun s).pm = s.pm := rfl
@[simp] theorem overrun_rf (s : State) : (overrun s).rf = s.rf := rfl
@[simp] theorem overrun_txf (s : State) : (overrun s).txf = s.txf := rfl
@[simp] theorem overrun_cr (s : State) : (overrun s).cr = s.cr := rfl
@[simp] theorem overrun_hit (s : State) : (overrun s).hit = s.hit := rfl
@[simp] theorem overrun_ovr (s : State) : (overrun s).ovr = true := rfl
@[simp] theorem overrun_closed (s : State) : (overrun s).closed = s.closed := rfl
@[simp] theorem overrun_result (s : State) : (overrun s).result = s.result := rfl
@[simp] theorem overrun_index (s : State) : (overrun s).index = s.index := rfl
@[simp] theorem overrun_resHum (s : State) : (overrun s).resHum = s.resHum := rfl
@[simp] theorem overrun_resTemp (s : State) : (overrun s).resTemp = s.resTemp := rfl
@[simp] theorem overrun_variant (s : State) : (overrun s).variant = s.variant := rfl
@[simp] theorem overrun_lineIn (s : State) : (overrun s).lineIn = s.lineIn := rfl
@[simp] theorem overrun_lineFault (s : State) : (overrun s).lineFault = s.lineFault := rfl
@[simp] theorem overrun_rst (s : State) : (overrun s).rst = s.rst := rfl
@[simp] theorem overrun_hostData (s : State) : (overrun s).hostData = s.hostData := rfl
@[simp] theorem overrun_params (s : State) : (overrun s).params = s.params := rfl
@[simp] theorem overrun_nowSub (s : State) : (overrun s).nowSub = s.nowSub := rfl
@[simp] theorem overrun_inputs (s : State) : (overrun s).inputs = s.inputs := rfl
@[simp] theorem overrun_freeIdx (s : State) : (overrun s).freeIdx = s.freeIdx := rfl

/-! ## raiseFailure -/

@[simp] theorem raiseFailure_phase (k : FailKind) (n : BitVec 6) (s : State) : (raiseFailure k n s).phase = phCommit := rfl
@[simp] theorem raiseFailure_idx (k : FailKind) (n : BitVec 6) (s : State) : (raiseFailure k n s).idx = s.idx := rfl
@[simp] theorem raiseFailure_cmdl (k : FailKind) (n : BitVec 6) (s : State) : (raiseFailure k n s).cmdl = s.cmdl := rfl
@[simp] theorem raiseFailure_lineDir (k : FailKind) (n : BitVec 6) (s : State) : (raiseFailure k n s).lineDir = s.lineDir := rfl
@[simp] theorem raiseFailure_lineLvl (k : FailKind) (n : BitVec 6) (s : State) : (raiseFailure k n s).lineLvl = s.lineLvl := rfl
@[simp] theorem raiseFailure_ptCnt (k : FailKind) (n : BitVec 6) (s : State) : (raiseFailure k n s).ptCnt = 0#64 := rfl
@[simp] theorem raiseFailure_tEnter (k : FailKind) (n : BitVec 6) (s : State) : (raiseFailure k n s).tEnter = s.tEnter := rfl
@[simp] theorem raiseFailure_now (k : FailKind) (n : BitVec 6) (s : State) : (raiseFailure k n s).now = s.now := rfl
@[simp] theorem raiseFailure_pm (k : FailKind) (n : BitVec 6) (s : State) : (raiseFailure k n s).pm = s.pm := rfl
@[simp] theorem raiseFailure_rf (k : FailKind) (n : BitVec 6) (s : State) : (raiseFailure k n s).rf = s.rf := rfl
@[simp] theorem raiseFailure_txf (k : FailKind) (n : BitVec 6) (s : State) : (raiseFailure k n s).txf = { kind := k, idx := n } := rfl
@[simp] theorem raiseFailure_cr (k : FailKind) (n : BitVec 6) (s : State) : (raiseFailure k n s).cr = s.cr := rfl
@[simp] theorem raiseFailure_hit (k : FailKind) (n : BitVec 6) (s : State) : (raiseFailure k n s).hit = s.hit := rfl
@[simp] theorem raiseFailure_ovr (k : FailKind) (n : BitVec 6) (s : State) : (raiseFailure k n s).ovr = s.ovr := rfl
@[simp] theorem raiseFailure_closed (k : FailKind) (n : BitVec 6) (s : State) : (raiseFailure k n s).closed = s.closed := rfl
@[simp] theorem raiseFailure_result (k : FailKind) (n : BitVec 6) (s : State) : (raiseFailure k n s).result = s.result := rfl
@[simp] theorem raiseFailure_index (k : FailKind) (n : BitVec 6) (s : State) : (raiseFailure k n s).index = s.index := rfl
@[simp] theorem raiseFailure_resHum (k : FailKind) (n : BitVec 6) (s : State) : (raiseFailure k n s).resHum = s.resHum := rfl
@[simp] theorem raiseFailure_resTemp (k : FailKind) (n : BitVec 6) (s : State) : (raiseFailure k n s).resTemp = s.resTemp := rfl
@[simp] theorem raiseFailure_variant (k : FailKind) (n : BitVec 6) (s : State) : (raiseFailure k n s).variant = s.variant := rfl
@[simp] theorem raiseFailure_lineIn (k : FailKind) (n : BitVec 6) (s : State) : (raiseFailure k n s).lineIn = s.lineIn := rfl
@[simp] theorem raiseFailure_lineFault (k : FailKind) (n : BitVec 6) (s : State) : (raiseFailure k n s).lineFault = s.lineFault := rfl
@[simp] theorem raiseFailure_rst (k : FailKind) (n : BitVec 6) (s : State) : (raiseFailure k n s).rst = s.rst := rfl
@[simp] theorem raiseFailure_hostData (k : FailKind) (n : BitVec 6) (s : State) : (raiseFailure k n s).hostData = s.hostData := rfl
@[simp] theorem raiseFailure_params (k : FailKind) (n : BitVec 6) (s : State) : (raiseFailure k n s).params = s.params := rfl
@[simp] theorem raiseFailure_nowSub (k : FailKind) (n : BitVec 6) (s : State) : (raiseFailure k n s).nowSub = s.nowSub := rfl
@[simp] theorem raiseFailure_inputs (k : FailKind) (n : BitVec 6) (s : State) : (raiseFailure k n s).inputs = s.inputs := rfl
@[simp] theorem raiseFailure_freeIdx (k : FailKind) (n : BitVec 6) (s : State) : (raiseFailure k n s).freeIdx = s.freeIdx := rfl

/-! ## endCommand -/

@[simp] theorem endCommand_phase (r : Result) (s : State) : (endCommand r s).phase = phIdle := rfl
@[simp] theorem endCommand_idx (r : Result) (s : State) : (endCommand r s).idx = s.idx := rfl
@[simp] theorem endCommand_cmdl (r : Result) (s : State) : (endCommand r s).cmdl = s.cmdl := rfl
@[simp] theorem endCommand_lineDir (r : Result) (s : State) : (endCommand r s).lineDir = s.lineDir := rfl
@[simp] theorem endCommand_lineLvl (r : Result) (s : State) : (endCommand r s).lineLvl = s.lineLvl := rfl
@[simp] theorem endCommand_ptCnt (r : Result) (s : State) : (endCommand r s).ptCnt = s.ptCnt := rfl
@[simp] theorem endCommand_tEnter (r : Result) (s : State) : (endCommand r s).tEnter = s.tEnter := rfl
@[simp] theorem endCommand_now (r : Result) (s : State) : (endCommand r s).now = s.now := rfl
@[simp] theorem endCommand_pm (r : Result) (s : State) : (endCommand r s).pm = s.pm := rfl
@[simp] theorem endCommand_rf (r : Result) (s : State) : (endCommand r s).rf = s.rf := rfl
@[simp] theorem endCommand_txf (r : Result) (s : State) : (endCommand r s).txf = s.txf := rfl
@[simp] theorem endCommand_cr (r : Result) (s : State) : (endCommand r s).cr = s.cr := rfl
@[simp] theorem endCommand_hit (r : Result) (s : State) : (endCommand r s).hit = false := rfl
@[simp] theorem endCommand_ovr (r : Result) (s : State) : (endCommand r s).ovr = s.ovr := rfl
@[simp] theorem endCommand_closed (r : Result) (s : State) : (endCommand r s).closed = s.closed := rfl
@[simp] theorem endCommand_result (r : Result) (s : State) : (endCommand r s).result = r := rfl
@[simp] theorem endCommand_index (r : Result) (s : State) : (endCommand r s).index = 0#6 := rfl
@[simp] theorem endCommand_resHum (r : Result) (s : State) : (endCommand r s).resHum = ResHum.clear := rfl
@[simp] theorem endCommand_resTemp (r : Result) (s : State) : (endCommand r s).resTemp = ResTemp.clear := rfl
@[simp] theorem endCommand_variant (r : Result) (s : State) : (endCommand r s).variant = s.variant := rfl
@[simp] theorem endCommand_lineIn (r : Result) (s : State) : (endCommand r s).lineIn = s.lineIn := rfl
@[simp] theorem endCommand_lineFault (r : Result) (s : State) : (endCommand r s).lineFault = s.lineFault := rfl
@[simp] theorem endCommand_rst (r : Result) (s : State) : (endCommand r s).rst = s.rst := rfl
@[simp] theorem endCommand_hostData (r : Result) (s : State) : (endCommand r s).hostData = s.hostData := rfl
@[simp] theorem endCommand_params (r : Result) (s : State) : (endCommand r s).params = s.params := rfl
@[simp] theorem endCommand_nowSub (r : Result) (s : State) : (endCommand r s).nowSub = s.nowSub := rfl
@[simp] theorem endCommand_inputs (r : Result) (s : State) : (endCommand r s).inputs = s.inputs := rfl
@[simp] theorem endCommand_freeIdx (r : Result) (s : State) : (endCommand r s).freeIdx = s.freeIdx := rfl

/-! ## ioError -/

@[simp] theorem ioError_phase (s : State) : (ioError s).phase = phIdle := rfl
@[simp] theorem ioError_idx (s : State) : (ioError s).idx = s.idx := rfl
@[simp] theorem ioError_cmdl (s : State) : (ioError s).cmdl = s.cmdl := rfl
@[simp] theorem ioError_lineDir (s : State) : (ioError s).lineDir = s.lineDir := rfl
@[simp] theorem ioError_lineLvl (s : State) : (ioError s).lineLvl = s.lineLvl := rfl
@[simp] theorem ioError_ptCnt (s : State) : (ioError s).ptCnt = 0#64 := rfl
@[simp] theorem ioError_tEnter (s : State) : (ioError s).tEnter = s.tEnter := rfl
@[simp] theorem ioError_now (s : State) : (ioError s).now = s.now := rfl
@[simp] theorem ioError_pm (s : State) : (ioError s).pm = s.pm := rfl
@[simp] theorem ioError_rf (s : State) : (ioError s).rf = s.rf := rfl
@[simp] theorem ioError_txf (s : State) : (ioError s).txf = s.txf := rfl
@[simp] theorem ioError_cr (s : State) : (ioError s).cr = s.cr := rfl
@[simp] theorem ioError_hit (s : State) : (ioError s).hit = false := rfl
@[simp] theorem ioError_ovr (s : State) : (ioError s).ovr = s.ovr := rfl
@[simp] theorem ioError_closed (s : State) : (ioError s).closed = s.closed := rfl
@[simp] theorem ioError_result (s : State) : (ioError s).result = .ioError := rfl
@[simp] theorem ioError_index (s : State) : (ioError s).index = 0#6 := rfl
@[simp] theorem ioError_resHum (s : State) : (ioError s).resHum = ResHum.clear := rfl
@[simp] theorem ioError_resTemp (s : State) : (ioError s).resTemp = ResTemp.clear := rfl
@[simp] theorem ioError_variant (s : State) : (ioError s).variant = s.variant := rfl
@[simp] theorem ioError_lineIn (s : State) : (ioError s).lineIn = s.lineIn := rfl
@[simp] theorem ioError_lineFault (s : State) : (ioError s).lineFault = s.lineFault := rfl
@[simp] theorem ioError_rst (s : State) : (ioError s).rst = s.rst := rfl
@[simp] theorem ioError_hostData (s : State) : (ioError s).hostData = s.hostData := rfl
@[simp] theorem ioError_params (s : State) : (ioError s).params = s.params := rfl
@[simp] theorem ioError_nowSub (s : State) : (ioError s).nowSub = s.nowSub := rfl
@[simp] theorem ioError_inputs (s : State) : (ioError s).inputs = s.inputs := rfl
@[simp] theorem ioError_freeIdx (s : State) : (ioError s).freeIdx = s.freeIdx := rfl

/-! ## passPoll -/

@[simp] theorem passPoll_phase (s : State) : (passPoll s).phase = s.phase := rfl
@[simp] theorem passPoll_idx (s : State) : (passPoll s).idx = s.idx := rfl
@[simp] theorem passPoll_cmdl (s : State) : (passPoll s).cmdl = s.cmdl := rfl
@[simp] theorem passPoll_lineDir (s : State) : (passPoll s).lineDir = s.lineDir := rfl
@[simp] theorem passPoll_lineLvl (s : State) : (passPoll s).lineLvl = s.lineLvl := rfl
@[simp] theorem passPoll_ptCnt (s : State) : (passPoll s).ptCnt = s.ptCnt := rfl
@[simp] theorem passPoll_tEnter (s : State) : (passPoll s).tEnter = s.tEnter := rfl
@[simp] theorem passPoll_now (s : State) : (passPoll s).now = s.now + (s.nowSub + s.params.tPollNs) / 1000 := rfl
@[simp] theorem passPoll_pm (s : State) : (passPoll s).pm = s.pm := rfl
@[simp] theorem passPoll_rf (s : State) : (passPoll s).rf = s.rf := rfl
@[simp] theorem passPoll_txf (s : State) : (passPoll s).txf = s.txf := rfl
@[simp] theorem passPoll_cr (s : State) : (passPoll s).cr = s.cr := rfl
@[simp] theorem passPoll_hit (s : State) : (passPoll s).hit = s.hit := rfl
@[simp] theorem passPoll_ovr (s : State) : (passPoll s).ovr = s.ovr := rfl
@[simp] theorem passPoll_closed (s : State) : (passPoll s).closed = s.closed := rfl
@[simp] theorem passPoll_result (s : State) : (passPoll s).result = s.result := rfl
@[simp] theorem passPoll_index (s : State) : (passPoll s).index = s.index := rfl
@[simp] theorem passPoll_resHum (s : State) : (passPoll s).resHum = s.resHum := rfl
@[simp] theorem passPoll_resTemp (s : State) : (passPoll s).resTemp = s.resTemp := rfl
@[simp] theorem passPoll_variant (s : State) : (passPoll s).variant = s.variant := rfl
@[simp] theorem passPoll_lineIn (s : State) : (passPoll s).lineIn = s.lineIn := rfl
@[simp] theorem passPoll_lineFault (s : State) : (passPoll s).lineFault = s.lineFault := rfl
@[simp] theorem passPoll_rst (s : State) : (passPoll s).rst = s.rst := rfl
@[simp] theorem passPoll_hostData (s : State) : (passPoll s).hostData = s.hostData := rfl
@[simp] theorem passPoll_params (s : State) : (passPoll s).params = s.params := rfl
@[simp] theorem passPoll_nowSub (s : State) : (passPoll s).nowSub = (s.nowSub + s.params.tPollNs) % 1000 := rfl
@[simp] theorem passPoll_inputs (s : State) : (passPoll s).inputs = s.inputs := rfl
@[simp] theorem passPoll_freeIdx (s : State) : (passPoll s).freeIdx = s.freeIdx := rfl

/-! ## releaseEvent -/

@[simp] theorem releaseEvent_phase (s : State) : (releaseEvent s).phase = s.phase := rfl
@[simp] theorem releaseEvent_idx (s : State) : (releaseEvent s).idx = s.idx := rfl
@[simp] theorem releaseEvent_cmdl (s : State) : (releaseEvent s).cmdl = s.cmdl := rfl
@[simp] theorem releaseEvent_lineDir (s : State) : (releaseEvent s).lineDir = s.lineDir := rfl
@[simp] theorem releaseEvent_lineLvl (s : State) : (releaseEvent s).lineLvl = s.lineLvl := rfl
@[simp] theorem releaseEvent_ptCnt (s : State) : (releaseEvent s).ptCnt = s.ptCnt := rfl
@[simp] theorem releaseEvent_tEnter (s : State) : (releaseEvent s).tEnter = s.tEnter := rfl
@[simp] theorem releaseEvent_now (s : State) : (releaseEvent s).now = s.now := rfl
@[simp] theorem releaseEvent_pm (s : State) : (releaseEvent s).pm = s.pm := rfl
@[simp] theorem releaseEvent_rf (s : State) : (releaseEvent s).rf = s.rf := rfl
@[simp] theorem releaseEvent_txf (s : State) : (releaseEvent s).txf = s.txf := rfl
@[simp] theorem releaseEvent_cr (s : State) : (releaseEvent s).cr = s.cr := rfl
@[simp] theorem releaseEvent_hit (s : State) : (releaseEvent s).hit = s.hit := rfl
@[simp] theorem releaseEvent_ovr (s : State) : (releaseEvent s).ovr = s.ovr := rfl
@[simp] theorem releaseEvent_closed (s : State) : (releaseEvent s).closed = s.closed := rfl
@[simp] theorem releaseEvent_result (s : State) : (releaseEvent s).result = s.result := rfl
@[simp] theorem releaseEvent_index (s : State) : (releaseEvent s).index = s.index := rfl
@[simp] theorem releaseEvent_resHum (s : State) : (releaseEvent s).resHum = s.resHum := rfl
@[simp] theorem releaseEvent_resTemp (s : State) : (releaseEvent s).resTemp = s.resTemp := rfl
@[simp] theorem releaseEvent_variant (s : State) : (releaseEvent s).variant = s.variant := rfl
@[simp] theorem releaseEvent_lineIn (s : State) : (releaseEvent s).lineIn = s.lineIn := rfl
@[simp] theorem releaseEvent_lineFault (s : State) : (releaseEvent s).lineFault = s.lineFault := rfl
@[simp] theorem releaseEvent_rst (s : State) : (releaseEvent s).rst = false := rfl
@[simp] theorem releaseEvent_hostData (s : State) : (releaseEvent s).hostData = s.hostData := rfl
@[simp] theorem releaseEvent_params (s : State) : (releaseEvent s).params = s.params := rfl
@[simp] theorem releaseEvent_nowSub (s : State) : (releaseEvent s).nowSub = s.nowSub := rfl
@[simp] theorem releaseEvent_inputs (s : State) : (releaseEvent s).inputs = s.inputs := rfl
@[simp] theorem releaseEvent_freeIdx (s : State) : (releaseEvent s).freeIdx = s.freeIdx := rfl

/-! ## resetBlock -/

@[simp] theorem resetBlock_phase (v : SensorVariant) (s : State) : (resetBlock v s).phase = phIdle := rfl
@[simp] theorem resetBlock_idx (v : SensorVariant) (s : State) : (resetBlock v s).idx = 0#6 := rfl
@[simp] theorem resetBlock_cmdl (v : SensorVariant) (s : State) : (resetBlock v s).cmdl = 0#8 := rfl
@[simp] theorem resetBlock_lineDir (v : SensorVariant) (s : State) : (resetBlock v s).lineDir = .input := rfl
@[simp] theorem resetBlock_lineLvl (v : SensorVariant) (s : State) : (resetBlock v s).lineLvl = true := rfl
@[simp] theorem resetBlock_ptCnt (v : SensorVariant) (s : State) : (resetBlock v s).ptCnt = 0#64 := rfl
@[simp] theorem resetBlock_tEnter (v : SensorVariant) (s : State) : (resetBlock v s).tEnter = 0 := rfl
@[simp] theorem resetBlock_now (v : SensorVariant) (s : State) : (resetBlock v s).now = 0 := rfl
@[simp] theorem resetBlock_pm (v : SensorVariant) (s : State) : (resetBlock v s).pm = pmZero := rfl
@[simp] theorem resetBlock_rf (v : SensorVariant) (s : State) : (resetBlock v s).rf = Frame.zero := rfl
@[simp] theorem resetBlock_txf (v : SensorVariant) (s : State) : (resetBlock v s).txf = Txf.clear := rfl
@[simp] theorem resetBlock_cr (v : SensorVariant) (s : State) : (resetBlock v s).cr = CachedReading.stale := rfl
@[simp] theorem resetBlock_hit (v : SensorVariant) (s : State) : (resetBlock v s).hit = false := rfl
@[simp] theorem resetBlock_ovr (v : SensorVariant) (s : State) : (resetBlock v s).ovr = false := rfl
@[simp] theorem resetBlock_closed (v : SensorVariant) (s : State) : (resetBlock v s).closed = false := rfl
@[simp] theorem resetBlock_result (v : SensorVariant) (s : State) : (resetBlock v s).result = .none := rfl
@[simp] theorem resetBlock_index (v : SensorVariant) (s : State) : (resetBlock v s).index = 0#6 := rfl
@[simp] theorem resetBlock_resHum (v : SensorVariant) (s : State) : (resetBlock v s).resHum = ResHum.clear := rfl
@[simp] theorem resetBlock_resTemp (v : SensorVariant) (s : State) : (resetBlock v s).resTemp = ResTemp.clear := rfl
@[simp] theorem resetBlock_variant (v : SensorVariant) (s : State) : (resetBlock v s).variant = v := rfl
@[simp] theorem resetBlock_lineIn (v : SensorVariant) (s : State) : (resetBlock v s).lineIn = s.lineIn := rfl
@[simp] theorem resetBlock_lineFault (v : SensorVariant) (s : State) : (resetBlock v s).lineFault = s.lineFault := rfl
@[simp] theorem resetBlock_rst (v : SensorVariant) (s : State) : (resetBlock v s).rst = true := rfl
@[simp] theorem resetBlock_hostData (v : SensorVariant) (s : State) : (resetBlock v s).hostData = s.hostData := rfl
@[simp] theorem resetBlock_params (v : SensorVariant) (s : State) : (resetBlock v s).params = s.params := rfl
@[simp] theorem resetBlock_nowSub (v : SensorVariant) (s : State) : (resetBlock v s).nowSub = 0 := rfl
@[simp] theorem resetBlock_inputs (v : SensorVariant) (s : State) : (resetBlock v s).inputs = s.inputs := rfl
@[simp] theorem resetBlock_freeIdx (v : SensorVariant) (s : State) : (resetBlock v s).freeIdx = s.freeIdx := rfl

end Sys2Proof.Machine
end

