-- ==== Sys2Proof/Laws/Ops.lean ====
section
/-! SUPPORT. One lemma per shared operation: everything it can do. -/

namespace Sys2Proof.Machine

/-- The capture buffer after a write (R18). -/
theorem pmEntry_pmSet (pm : Vector Count 80) (k j : Nat) (c : Count) :
    pmEntry (pmSet pm k c) j = if k = j ∧ k < 80 then c else pmEntry pm j := by
  unfold pmEntry pmSet
  by_cases hj : j < 80
  · by_cases hk : k = j
    · subst hk
      simp [hj]
    · simp [hj, hk]
  · have : ¬(k = j ∧ k < 80) := fun h => hj (h.1 ▸ h.2)
    simp [hj, this]

/-- Every entry of the cleared buffer is 0. -/
@[simp] theorem pmEntry_pmZero (k : Nat) : pmEntry pmZero k = 0#64 := by
  unfold pmEntry pmZero
  by_cases hk : k < 80 <;> simp [hk]

/-- A step that issues a line primitive: IoError when the line fails, else its effect (R85). -/
theorem lineStep_cases (s d : State) :
    (lineFails s = true ∧ lineStep s d = ioError s) ∨ (lineFails s = false ∧ lineStep s d = d) := by
  unfold lineStep
  cases lineFails s <;> simp

/-- A hold phase waits, or its duration has passed and it does its exit (R84). -/
theorem hold_cases (d : Nat) (f : State → State) (s : State) :
    (s.now - s.tEnter < d ∧ hold d f s = s) ∨ (d ≤ s.now - s.tEnter ∧ hold d f s = f s) := by
  unfold hold holdDone
  by_cases h : d ≤ s.now - s.tEnter <;> simp [h]
  omega

/-- A polling cycle: IoError, the end of the timer with its result, or one more matching sample (R87). -/
theorem pollStep_cases (level : Bool) (f : Count → State → State) (s : State) :
    (lineFails s = true ∧ pollStep level f s = ioError s) ∨
    (lineFails s = false ∧ s.lineIn ≠ level ∧ pollStep level f s = f s.ptCnt (passPoll s)) ∨
    (lineFails s = false ∧ s.lineIn = level ∧ s.params.maxCycles.toNat ≤ s.ptCnt.toNat + 1 ∧
      pollStep level f s = f 0#64 (passPoll s)) ∨
    (lineFails s = false ∧ s.lineIn = level ∧ s.ptCnt.toNat + 1 < s.params.maxCycles.toNat ∧
      pollStep level f s = { passPoll s with ptCnt := s.ptCnt + 1#64 }) := by
  unfold pollStep
  rcases lineStep_cases s
      (if s.lineIn != level then f s.ptCnt (passPoll s)
       else if s.params.maxCycles.toNat ≤ s.ptCnt.toNat + 1 then f 0#64 (passPoll s)
       else { passPoll s with ptCnt := s.ptCnt + 1#64 }) with ⟨hf, h⟩ | ⟨hf, h⟩
  · exact .inl ⟨hf, h⟩
  · rw [h]
    by_cases hl : s.lineIn = level
    · by_cases hm : s.params.maxCycles.toNat ≤ s.ptCnt.toNat + 1
      · exact .inr (.inr (.inl ⟨hf, hl, hm, by simp [hl, hm]⟩))
      · exact .inr (.inr (.inr ⟨hf, hl, by omega, by simp [hl, hm]⟩))
    · exact .inr (.inl ⟨hf, hl, by simp [hl]⟩)

/-- A time event: nothing while `rst` is held or the pulse timer runs, else `now` grows by its amount (R17, R93, R210). -/
theorem passTime_cases (us : Nat) (s : State) :
    ((s.rst = true ∨ polling s = true) ∧ passTime us s = s) ∨
    (s.rst = false ∧ polling s = false ∧ passTime us s = { s with now := s.now + us }) := by
  unfold passTime
  cases s.rst <;> cases polling s <;> simp

/-- A legal opcode written to `CMD`: overrun, ClosedDriver, a hit, IoError, or a transaction (R101, R102, R190). -/
theorem command_cases (op : Byte) (s : State) :
    (busy s = true ∧ command op s = overrun s) ∨
    (busy s = false ∧ s.closed = true ∧ command op s = endCommand .closedDriver s) ∨
    (busy s = false ∧ s.closed = false ∧ cacheHit op s = true ∧
      command op s = { s with cmdl := op, hit := true, phase := phRespond }) ∨
    (busy s = false ∧ s.closed = false ∧ cacheHit op s = false ∧ lineFails s = true ∧ command op s = ioError s) ∨
    (busy s = false ∧ s.closed = false ∧ cacheHit op s = false ∧ lineFails s = false ∧
      command op s = startTransaction { s with cmdl := op, hit := false }) := by
  unfold command accept
  cases hb : busy s <;> cases hc : s.closed <;> cases hh : cacheHit op s <;> simp
  exact (lineStep_cases s _).elim (fun h => .inl h) (fun h => .inr h)

/-- Taking an event changes nothing but the model's own list and counter, and does not depend on the rest. -/
theorem takeEvent_snd (s : State) :
    ∃ es n, (takeEvent s).2 = { s with inputs := es, freeIdx := n } := by
  unfold takeEvent
  split
  · exact ⟨_, s.freeIdx, rfl⟩
  · exact ⟨s.inputs, _, rfl⟩

/-- Every meaning answers a next state. -/
theorem exec_next (i : Instr) (s : State) : ∃ t, exec i s = .next t := by
  cases i <;> exact ⟨_, rfl⟩

/-- While `rst` is held nothing is fetched (R210). -/
theorem fetch_held {s : State} (h : s.rst = true) (e : Event) : fetch e s = none := if_pos h

/-- While `rst` is not held an event runs the word it issues. -/
theorem fetch_running {s : State} (h : s.rst = false) (e : Event) : fetch e s = issuedWord e s :=
  if_neg (by simp [h])

/-- The events that run no instruction and act alike whether `rst` is held or not: a read, a pin, a reset, the release
of `rst`. -/
inductive PortCase (e : Event) (s : State) : State → Prop
  | read (addr : Offset) (he : e = .host (.read .word addr)) : PortCase e s { s with hostData := regRead s addr }
  | line (l : Bool) (he : e = .line l) : PortCase e s { s with lineIn := l }
  | fault (f : Bool) (he : e = .fault f) : PortCase e s { s with lineFault := f }
  | reset (strap : BitVec 2) (v : SensorVariant) (he : e = .reset strap) (hv : variantOfCode strap = some v) :
      PortCase e s (resetBlock v s)
  | release (he : e = .release) : PortCase e s (releaseEvent s)

/-- Everything an event that runs no instruction can do when it is not refused. -/
theorem applyEvent_cases {e : Event} {s t : State} (h : applyEvent e s = .next t) :
    (e = .engine ∧ t = s) ∨ (∃ addr v, e = .host (.write .word addr v) ∧ t = s) ∨
    (∃ us, e = .tick us ∧ t = passTime us s) ∨ PortCase e s t := by
  cases e with
  | engine =>
    injection h with h
    exact .inl ⟨rfl, h.symm⟩
  | host a =>
    cases a with
    | read size addr =>
      simp only [applyEvent, hostRead] at h
      split at h
      · rename_i hw
        cases size <;> simp [HostAccess.wf] at hw
        injection h with h
        exact .inr (.inr (.inr (h ▸ .read addr rfl)))
      · cases h
    | write size addr v =>
      simp only [applyEvent, hostWriteIgnored] at h
      split at h
      · rename_i hw
        cases size <;> simp [HostAccess.wf] at hw
        injection h with h
        exact .inr (.inl ⟨addr, v, rfl, h.symm⟩)
      · cases h
  | tick us =>
    injection h with h
    exact .inr (.inr (.inl ⟨us, rfl, h.symm⟩))
  | line l =>
    injection h with h
    exact .inr (.inr (.inr (h ▸ .line l rfl)))
  | fault f =>
    injection h with h
    exact .inr (.inr (.inr (h ▸ .fault f rfl)))
  | reset strap =>
    simp only [applyEvent, resetEvent] at h
    split at h
    · rename_i v hv
      injection h with h
      exact .inr (.inr (.inr (h ▸ .reset strap v rfl hv)))
    · cases h
  | release =>
    injection h with h
    exact .inr (.inr (.inr (h ▸ .release rfl)))

/-- R210: everything one event can do while `rst` is held. -/
theorem runEvent_held {e : Event} {s t : State} (hr : s.rst = true) (h : runEvent e s = .next t) :
    t = s ∨ PortCase e s t := by
  simp only [runEvent, fetch_held hr] at h
  rcases applyEvent_cases h with ⟨_, h⟩ | ⟨_, _, _, h⟩ | ⟨us, _, h⟩ | h
  · exact .inl h
  · exact .inl h
  · exact .inl (by rw [h, passTime, hr]; rfl)
  · exact .inr h

/-- Everything one event can do while `rst` is not held and the event is not refused. -/
theorem runEvent_cases {e : Event} {s t : State} (hr : s.rst = false) (h : runEvent e s = .next t) :
    (e = .engine ∧ ∃ i, decodePhase s.phase = .ok i ∧ exec i s = .next t) ∨
    (∃ v : Word, e = .host (.write .word cmdOffset v) ∧
      ((∃ i, decodeCmd (v.extractLsb' 0 8) = .ok i ∧ exec i s = .next t) ∨ t = illegalCommand s)) ∨
    (∃ v : Word, e = .host (.write .word ctrlOffset v) ∧ (exec .close s = .next t ∨ t = ctrlNoOperation s)) ∨
    (∃ addr v, e = .host (.write .word addr v) ∧ t = s) ∨
    (∃ us, e = .tick us ∧ t = passTime us s) ∨
    PortCase e s t := by
  simp only [runEvent, fetch_running hr] at h
  have rest : issuedWord e s = none → e ≠ .engine → applyEvent e s = .next t → _ := fun _ hn ha =>
    (applyEvent_cases ha).resolve_left (fun h => hn h.1)
  cases e with
  | engine =>
    simp only [issuedWord, decode] at h
    refine .inl ⟨rfl, ?_⟩
    split at h
    · exact ⟨_, ‹_›, h⟩
    · rename_i r hd
      rw [(decodePhase_error hd).1] at h
      cases h
  | host a =>
    cases a with
    | read size addr => exact .inr (.inr (.inr (rest rfl (by simp) h)))
    | write size addr v =>
      cases size with
      | byte => exact .inr (.inr (.inr (rest rfl (by simp) h)))
      | half => exact .inr (.inr (.inr (rest rfl (by simp) h)))
      | word =>
        by_cases h0 : addr = cmdOffset
        · subst h0
          simp only [issuedWord, writtenWord, decode, if_true] at h
          refine .inr (.inl ⟨v, rfl, ?_⟩)
          split at h
          · exact .inl ⟨_, ‹_›, h⟩
          · rename_i r hd
            rw [decodeCmd_error hd] at h
            injection h with h
            exact .inr h.symm
        · by_cases h8 : addr = ctrlOffset
          · subst h8
            simp only [issuedWord, writtenWord, decode, if_true, if_neg h0] at h
            refine .inr (.inr (.inl ⟨v, rfl, ?_⟩))
            split at h
            · rename_i i hi
              rw [(decodeCtrl_ok_cases hi).2] at h
              exact .inl h
            · rename_i r hd
              have : r = .noOperation := by
                unfold decodeCtrl at hd
                split at hd <;> first | (cases hd; done) | (injection hd with hd; exact hd.symm)
              subst this
              injection h with h
              exact .inr h.symm
          · have hn : issuedWord (.host (.write .word addr v)) s = none := by
              simp only [issuedWord, writtenWord, if_neg h0, if_neg h8]
            rw [hn] at h
            exact .inr (.inr (.inr (rest hn (by simp) h)))
  | tick us => exact .inr (.inr (.inr (rest rfl (by simp) h)))
  | line l => exact .inr (.inr (.inr (rest rfl (by simp) h)))
  | fault f => exact .inr (.inr (.inr (rest rfl (by simp) h)))
  | reset strap => exact .inr (.inr (.inr (rest rfl (by simp) h)))
  | release => exact .inr (.inr (.inr (rest rfl (by simp) h)))

end Sys2Proof.Machine
end

