-- ==== Sys2Proof/Laws/Host.lean ====
section
/-! SUPPORT. What a host access does, one lemma per kind of access, and what the five commands have in common. -/

namespace Sys2Proof.Machine

/-- The opcode of a command (R62). -/
def opcodeOf : Instr → Byte
  | .cap => 0x01#8
  | .capF => 0x03#8
  | .rdt => 0x04#8
  | .rdh => 0x08#8
  | .rdb => 0x0C#8
  | .close | .idle | .stab | .wakeLo | .wakeHi | .release | .ackLo | .ackHi | .bitLo | .bitHi | .assemble | .commit
  | .respond => 0x00#8

/-- Each of the five commands is the shared operation `command` on its opcode. -/
theorem exec_command (i : Instr) (h : i.isCommand = true) (s : State) : exec i s = .next (command (opcodeOf i) s) := by
  cases i <;> first | rfl | cases h

/-- An opcode is legal or rejected by name. -/
theorem decodeCmd_cases (op : Byte) :
    (Opcode.wf op = true ∧ ∃ i, decodeCmd op = .ok i ∧ i.isCommand = true ∧ opcodeOf i = op) ∨
    (Opcode.wf op = false ∧ decodeCmd op = .error (.illegalOpcode op)) := by
  cases h : decodeCmd op with
  | ok i =>
    refine .inl ?_
    rcases decodeCmd_ok_cases h with ⟨rfl, rfl⟩ | ⟨rfl, rfl⟩ | ⟨rfl, rfl⟩ | ⟨rfl, rfl⟩ | ⟨rfl, rfl⟩ <;>
      exact ⟨by decide, _, rfl, by decide, by decide⟩
  | error r =>
    refine .inr ⟨?_, by rw [decodeCmd_error h]⟩
    have all : ∀ op : Byte, Opcode.wf op = (decodeCmd op).isOk := by decide
    rw [all, h]
    rfl

/-- A word written to `CMD` while `rst` is not held: the command its low byte encodes, or the rejection (R45). -/
theorem runEvent_writeCmd (v : Word) {s : State} (hr : s.rst = false) :
    runEvent (.host (.write .word cmdOffset v)) s
      = .next (if Opcode.wf (v.extractLsb' 0 8) then command (v.extractLsb' 0 8) s else illegalCommand s) := by
  simp only [runEvent, fetch_running hr, issuedWord, writtenWord, decode, if_true]
  rcases decodeCmd_cases (v.extractLsb' 0 8) with ⟨hw, i, hd, hi, ho⟩ | ⟨hw, hd⟩
  · rw [hd, hw]
    show exec i s = _
    rw [exec_command i hi, ho, if_pos rfl]
  · rw [hd, hw]
    rfl

/-- A word written to `CTRL` while `rst` is not held: the close request, or no operation (R45, R64). -/
theorem runEvent_writeCtrl (v : Word) {s : State} (hr : s.rst = false) :
    runEvent (.host (.write .word ctrlOffset v)) s
      = .next (if v.getLsbD 0 then closeDriver s else ctrlNoOperation s) := by
  have h : ctrlOffset ≠ cmdOffset := by decide
  have hb : v.extractLsb' 0 1 = BitVec.ofBool (v.getLsbD 0) := by
    ext i hi
    have : i = 0 := by omega
    subst this
    simp
  simp only [runEvent, fetch_running hr, issuedWord, writtenWord, decode, if_true, if_neg h, hb]
  cases v.getLsbD 0 <;> rfl

/-- An aligned word written anywhere else is ignored (R45, R50), `rst` held or not. -/
theorem runEvent_writeElse {addr : Offset} (h0 : addr ≠ cmdOffset) (h8 : addr ≠ ctrlOffset)
    (ha : Offset.aligned addr = true) (v : Word) (s : State) :
    runEvent (.host (.write .word addr v)) s = .next s := by
  simp [runEvent, fetch, issuedWord, writtenWord, h0, h8, applyEvent, hostWriteIgnored, HostAccess.wf, ha]

/-- A read of an aligned word (R44), `rst` held or not. -/
theorem runEvent_read {addr : Offset} (ha : Offset.aligned addr = true) (s : State) :
    runEvent (.host (.read .word addr)) s = .next { s with hostData := regRead s addr } := by
  simp [runEvent, fetch, issuedWord, applyEvent, hostRead, HostAccess.wf, ha]

end Sys2Proof.Machine
end

