-- ==== Sys2Proof/Laws/Exec.lean ====
section
/-! SUPPORT. One lemma per phase of the sequencer: everything its step can answer. -/

namespace Sys2Proof.Machine

variable {s t : State}

theorem execIdle_cases (h : exec .idle s = .next t) : t = s := by
  injection h with h
  exact h.symm

theorem execStab_cases (h : exec .stab s = .next t) :
    (s.now - s.tEnter < tStab ∧ t = s) ∨
    (tStab ≤ s.now - s.tEnter ∧ lineFails s = true ∧ t = ioError s) ∨
    (tStab ≤ s.now - s.tEnter ∧ lineFails s = false ∧ t = enterHold phWakeLo (setLevel false s)) := by
  injection h with h
  subst h
  rcases hold_cases tStab (fun s => lineStep s (enterHold phWakeLo (setLevel false s))) s with h | ⟨h, e⟩
  · exact .inl h
  · rw [e]
    exact .inr ((lineStep_cases s _).imp (fun l => ⟨h, l⟩) (fun l => ⟨h, l⟩))

theorem execWakeLo_cases (h : exec .wakeLo s = .next t) :
    (s.now - s.tEnter < tWakeLo ∧ t = s) ∨
    (tWakeLo ≤ s.now - s.tEnter ∧ lineFails s = true ∧ t = ioError s) ∨
    (tWakeLo ≤ s.now - s.tEnter ∧ lineFails s = false ∧ t = enterHold phWakeHi (setLevel true s)) := by
  injection h with h
  subst h
  rcases hold_cases tWakeLo (fun s => lineStep s (enterHold phWakeHi (setLevel true s))) s with h | ⟨h, e⟩
  · exact .inl h
  · rw [e]
    exact .inr ((lineStep_cases s _).imp (fun l => ⟨h, l⟩) (fun l => ⟨h, l⟩))

theorem execWakeHi_cases (h : exec .wakeHi s = .next t) :
    (s.now - s.tEnter < tWakeHi ∧ t = s) ∨
    (tWakeHi ≤ s.now - s.tEnter ∧ lineFails s = true ∧ t = ioError s) ∨
    (tWakeHi ≤ s.now - s.tEnter ∧ lineFails s = false ∧ t = enterHold phRelease (setDirection .input s)) := by
  injection h with h
  subst h
  rcases hold_cases tWakeHi (fun s => lineStep s (enterHold phRelease (setDirection .input s))) s with h | ⟨h, e⟩
  · exact .inl h
  · rw [e]
    exact .inr ((lineStep_cases s _).imp (fun l => ⟨h, l⟩) (fun l => ⟨h, l⟩))

theorem execRelease_cases (h : exec .release s = .next t) :
    (s.now - s.tEnter < tRelease ∧ t = s) ∨ (tRelease ≤ s.now - s.tEnter ∧ t = enterPoll phAckLo s) := by
  injection h with h
  subst h
  exact hold_cases tRelease (enterPoll phAckLo) s

/-- The result `c` the pulse timer ends with at this step, if it ends (R87). -/
def PollResult (level : Bool) (s : State) (c : Count) : Prop :=
  (s.lineIn ≠ level ∧ c = s.ptCnt) ∨
  (s.lineIn = level ∧ s.params.maxCycles.toNat ≤ s.ptCnt.toNat + 1 ∧ c = 0#64)

/-- A step of a pulse-timer phase: IoError, one more matching sample, or the phase's exit with the timer's result. -/
theorem pollStep_result (level : Bool) (f : Count → State → State) (s : State) :
    (lineFails s = true ∧ pollStep level f s = ioError s) ∨
    (lineFails s = false ∧ s.lineIn = level ∧ s.ptCnt.toNat + 1 < s.params.maxCycles.toNat ∧
      pollStep level f s = { passPoll s with ptCnt := s.ptCnt + 1#64 }) ∨
    (∃ c, lineFails s = false ∧ PollResult level s c ∧ pollStep level f s = f c (passPoll s)) := by
  rcases pollStep_cases level f s with h | ⟨hf, hl, h⟩ | ⟨hf, hl, hm, h⟩ | h
  · exact .inl h
  · exact .inr (.inr ⟨_, hf, .inl ⟨hl, rfl⟩, h⟩)
  · exact .inr (.inr ⟨_, hf, .inr ⟨hl, hm, rfl⟩, h⟩)
  · exact .inr (.inl h)

/-- A count that is not 0 is the counter's, and the sample differed (R87, R88). -/
theorem PollResult.eq_of_ne_zero {level : Bool} {c : Count} (h : PollResult level s c) (hc : c ≠ 0#64) :
    s.lineIn ≠ level ∧ c = s.ptCnt := by
  rcases h with h | ⟨_, _, h⟩
  · exact h
  · exact absurd h hc

theorem ackLoExit_cases (c : Count) (s : State) :
    (c = 0#64 ∧ ackLoExit c s = raiseFailure .timeoutAck 0#6 s) ∨
    (c ≠ 0#64 ∧ ackLoExit c s = enterPoll phAckHi s) := by
  unfold ackLoExit
  by_cases h : c = 0#64 <;> simp [h]

theorem ackHiExit_cases (c : Count) (s : State) :
    (c = 0#64 ∧ ackHiExit c s = raiseFailure .timeoutAck 0#6 s) ∨
    (c ≠ 0#64 ∧ ackHiExit c s = enterPoll phBitLo { s with idx := 0#6 }) := by
  unfold ackHiExit
  by_cases h : c = 0#64 <;> simp [h]

theorem bitLoExit_cases (c : Count) (s : State) :
    (c = 0#64 ∧ bitLoExit c s = raiseFailure .timeoutBit s.idx s) ∨
    (c ≠ 0#64 ∧ bitLoExit c s = enterPoll phBitHi { s with pm := pmSet s.pm (2 * s.idx.toNat) c }) := by
  unfold bitLoExit
  by_cases h : c = 0#64 <;> simp [h]

theorem bitHiExit_cases (c : Count) (s : State) :
    (c = 0#64 ∧ bitHiExit c s = raiseFailure .timeoutBit s.idx s) ∨
    (c ≠ 0#64 ∧ s.idx = 39#6 ∧ bitHiExit c s = enterPoll phAssemble { s with pm := pmSet s.pm 79 c }) ∨
    (c ≠ 0#64 ∧ s.idx ≠ 39#6 ∧
      bitHiExit c s = enterPoll phBitLo { s with pm := pmSet s.pm (2 * s.idx.toNat + 1) c, idx := s.idx + 1#6 }) := by
  unfold bitHiExit
  by_cases h : c = 0#64
  · simp [h]
  · by_cases h' : s.idx = 39#6 <;> simp [h, h']

/-- The four pulse-timer phases: the level each awaits and its exit. -/
def timerExit : Instr → Option (Bool × (Count → State → State))
  | .ackLo => some (false, ackLoExit)
  | .ackHi => some (true, ackHiExit)
  | .bitLo => some (false, bitLoExit)
  | .bitHi => some (true, bitHiExit)
  | .cap | .capF | .rdt | .rdh | .rdb | .close | .idle | .stab | .wakeLo | .wakeHi | .release | .assemble | .commit
  | .respond => none

theorem exec_timer {i : Instr} {p : Bool × (Count → State → State)} (h : timerExit i = some p) (s : State) :
    exec i s = .next (pollStep p.1 p.2 s) := by
  cases i <;> first | (cases h; done) | (injection h with h; subst h; rfl)

theorem execRespond_cases (h : exec .respond s = .next t) :
    (s.cr.ok = true ∧
      t = { s with
            result := .ok, index := 0#6, resHum := respondHum s, resTemp := respondTemp s, phase := phIdle }) ∨
    (s.cr.ok = false ∧
      t = { s with
            result := resultOfFail s.cr.fkind, index := s.cr.fidx, resHum := ResHum.clear, resTemp := ResTemp.clear
            phase := phIdle }) := by
  injection h with h
  subst h
  unfold deliver
  cases s.cr.ok <;> simp

theorem closeDriver_cases (s : State) :
    (busy s = true ∧ closeDriver s = overrun s) ∨
    (busy s = false ∧ closeDriver s = setDirection .input { s with closed := true }) := by
  unfold closeDriver
  cases busy s <;> simp

theorem illegalCommand_cases (s : State) :
    (busy s = true ∧ illegalCommand s = overrun s) ∨
    (busy s = false ∧ illegalCommand s = endCommand .illegalCommand s) := by
  unfold illegalCommand
  cases busy s <;> simp

theorem ctrlNoOperation_cases (s : State) :
    (busy s = true ∧ ctrlNoOperation s = overrun s) ∨ (busy s = false ∧ ctrlNoOperation s = s) := by
  unfold ctrlNoOperation
  cases busy s <;> simp

/-- The phase code an instruction stands for, and back. -/
theorem decodePhase_iff (c : BitVec 4) (i : Instr) : decodePhase c = .ok i ↔ encode i = .phase c := by
  refine ⟨decodePhase_ok_encode, fun h => ?_⟩
  cases i <;> first | (cases h; done) | (injection h with h; subst h; rfl)

end Sys2Proof.Machine
end

