-- ==== Sys2Proof/Laws/Operands.lean ====
section
/-! SUPPORT. The frame as a number and back (20_memory.md R41), the numbers two joined bytes stand for,
and the rendering of 0 (43_frame_decoder.md R147). -/

namespace Sys2Proof.Machine

/-- The bytes of `F40` are the frame's. -/
@[simp] theorem frameOfF40_toF40 (f : Frame) : frameOfF40 f.toF40 = f := by
  cases f with
  | mk a b c d e =>
    simp only [frameOfF40, Frame.toF40, Frame.mk.injEq]
    refine ⟨?_, ?_, ?_, ?_, ?_⟩ <;>
      (apply BitVec.eq_of_getLsbD_eq
       intro i hi
       interval_cases i <;> simp only [BitVec.getLsbD_append, BitVec.getLsbD_extractLsb'] <;> simp)

/-- Two bytes, the high one first (R42). -/
theorem toNat_append_bytes (a b : Byte) : (a ++ b).toNat = a.toNat * 256 + b.toNat := by
  rw [BitVec.toNat_append, ← Nat.shiftLeft_add_eq_or_of_lt b.isLt, Nat.shiftLeft_eq]

/-- Every rendering gives zeros for the magnitude 0 (R147). -/
@[simp] theorem renderedMagnitude_zero (f : Rendering) : renderedMagnitude f 0#16 = 0#31 := by
  cases f with
  | correctlyRounded => rfl
  | supplied n => simp [renderedMagnitude]

/-- A byte without its top bit. -/
theorem toNat_and_7F (b : Byte) : (b &&& 0x7F#8).toNat = b.toNat % 128 := by
  rw [BitVec.toNat_and]
  exact Nat.and_two_pow_sub_one_eq_mod b.toNat 7

end Sys2Proof.Machine
end

