-- ==== Sys2Proof/Laws/PerInstr.lean ====
section
/-! SUPPORT. The family `EncodeWf`: the encoding of every instruction is a legal word of its place (30_encoding.md R62,
R64, R65), and a command's opcode has its four high bits 0 (R61). One lemma per constructor. -/

namespace Sys2Proof.Laws.EncodeWf

/-- The encoding is well-formed, and its place is the instruction's own kind. -/
def Statement (i : Instr) : Prop :=
  (encode i).wf = true ∧
    match encode i with
    | .cmd op => i.isCommand = true ∧ op.extractLsb' 4 4 = 0#4
    | .ctrl b => i = .close ∧ b = 1#1
    | .phase code => i.isCommand = false ∧ code.toNat < 12

theorem cap : Statement .cap := ⟨by decide, by decide, by decide⟩
theorem capF : Statement .capF := ⟨by decide, by decide, by decide⟩
theorem rdt : Statement .rdt := ⟨by decide, by decide, by decide⟩
theorem rdh : Statement .rdh := ⟨by decide, by decide, by decide⟩
theorem rdb : Statement .rdb := ⟨by decide, by decide, by decide⟩
theorem close : Statement .close := ⟨by decide, by decide, by decide⟩
theorem idle : Statement .idle := ⟨by decide, by decide, by decide⟩
theorem stab : Statement .stab := ⟨by decide, by decide, by decide⟩
theorem wakeLo : Statement .wakeLo := ⟨by decide, by decide, by decide⟩
theorem wakeHi : Statement .wakeHi := ⟨by decide, by decide, by decide⟩
theorem release : Statement .release := ⟨by decide, by decide, by decide⟩
theorem ackLo : Statement .ackLo := ⟨by decide, by decide, by decide⟩
theorem ackHi : Statement .ackHi := ⟨by decide, by decide, by decide⟩
theorem bitLo : Statement .bitLo := ⟨by decide, by decide, by decide⟩
theorem bitHi : Statement .bitHi := ⟨by decide, by decide, by decide⟩
theorem assemble : Statement .assemble := ⟨by decide, by decide, by decide⟩
theorem commit : Statement .commit := ⟨by decide, by decide, by decide⟩
theorem respond : Statement .respond := ⟨by decide, by decide, by decide⟩

end Sys2Proof.Laws.EncodeWf
end

