-- ==== Sys2Proof/Laws/StepCases.lean ====
section
/-! SUPPORT. Everything one step can do, said once: every way an event can lead from a state to a next state, with the
condition it happens under. Whole-machine claims are case analyses of `step_stepCase`. -/

namespace Sys2Proof.Machine

/-- The ways event `e`, if it is no event of `PortCase`, leads from `s` (the event already taken, `rst` not held) to
the next state. -/
inductive StepCase (e : Event) (s : State) : State → Prop
  -- host
  | overrun (v : Word) (addr : Offset) (ha : addr = cmdOffset ∨ addr = ctrlOffset)
      (he : e = .host (.write .word addr v)) (hb : busy s = true) : StepCase e s (overrun s)
  | illegal (v : Word) (he : e = .host (.write .word cmdOffset v)) (hb : busy s = false)
      (hw : Opcode.wf (v.extractLsb' 0 8) = false) :
      StepCase e s (endCommand .illegalCommand s)
  | closedDriver (v : Word) (he : e = .host (.write .word cmdOffset v)) (hw : Opcode.wf (v.extractLsb' 0 8) = true)
      (hb : busy s = false) (hc : s.closed = true) : StepCase e s (endCommand .closedDriver s)
  | hit (v : Word) (op : Byte) (he : e = .host (.write .word cmdOffset v)) (ho : op = v.extractLsb' 0 8)
      (hw : Opcode.wf op = true) (hb : busy s = false) (hc : s.closed = false) (hh : cacheHit op s = true) :
      StepCase e s { s with cmdl := op, hit := true, phase := phRespond }
  | acceptFault (v : Word) (op : Byte) (he : e = .host (.write .word cmdOffset v)) (ho : op = v.extractLsb' 0 8)
      (hw : Opcode.wf op = true) (hb : busy s = false) (hc : s.closed = false) (hh : cacheHit op s = false)
      (hl : lineFails s = true) :
      StepCase e s (ioError s)
  | start (v : Word) (op : Byte) (he : e = .host (.write .word cmdOffset v)) (ho : op = v.extractLsb' 0 8)
      (hw : Opcode.wf op = true) (hb : busy s = false) (hc : s.closed = false) (hh : cacheHit op s = false)
      (hl : lineFails s = false) :
      StepCase e s (startTransaction { s with cmdl := op, hit := false })
  | close (v : Word) (he : e = .host (.write .word ctrlOffset v)) (hb : busy s = false) :
      StepCase e s (setDirection .input { s with closed := true })
  | ignoredWrite (v : Word) (addr : Offset) (he : e = .host (.write .word addr v)) : StepCase e s s
  -- environment
  | tick (us : Nat) (he : e = .tick us) : StepCase e s (passTime us s)
  -- engine
  | wait (he : e = .engine) (hp : s.phase.toNat ≤ 4) : StepCase e s s
  | engineFault (he : e = .engine) (hp : s.phase ∈ [phStab, phWakeLo, phWakeHi, phAckLo, phAckHi, phBitLo, phBitHi])
      (hl : lineFails s = true) : StepCase e s (ioError s)
  | stab (he : e = .engine) (hp : s.phase = phStab) (hd : tStab ≤ s.now - s.tEnter) (hl : lineFails s = false) :
      StepCase e s (enterHold phWakeLo (setLevel false s))
  | wakeLo (he : e = .engine) (hp : s.phase = phWakeLo) (hd : tWakeLo ≤ s.now - s.tEnter)
      (hl : lineFails s = false) :
      StepCase e s (enterHold phWakeHi (setLevel true s))
  | wakeHi (he : e = .engine) (hp : s.phase = phWakeHi) (hd : tWakeHi ≤ s.now - s.tEnter)
      (hl : lineFails s = false) :
      StepCase e s (enterHold phRelease (setDirection .input s))
  | release (he : e = .engine) (hp : s.phase = phRelease) (hd : tRelease ≤ s.now - s.tEnter) :
      StepCase e s (enterPoll phAckLo s)
  | count (he : e = .engine) (hp : polling s = true) (hm : s.ptCnt.toNat + 1 < s.params.maxCycles.toNat)
      (hl : lineFails s = false) :
      StepCase e s { passPoll s with ptCnt := s.ptCnt + 1#64 }
  | ackLoFail (he : e = .engine) (hp : s.phase = phAckLo) (hr : PollResult false s 0#64)
      (hl : lineFails s = false) :
      StepCase e s (raiseFailure .timeoutAck 0#6 (passPoll s))
  | ackLo (c : Count) (he : e = .engine) (hp : s.phase = phAckLo) (hr : PollResult false s c)
      (hl : lineFails s = false) (hc : c ≠ 0#64) :
      StepCase e s (enterPoll phAckHi (passPoll s))
  | ackHiFail (he : e = .engine) (hp : s.phase = phAckHi) (hr : PollResult true s 0#64)
      (hl : lineFails s = false) :
      StepCase e s (raiseFailure .timeoutAck 0#6 (passPoll s))
  | ackHi (c : Count) (he : e = .engine) (hp : s.phase = phAckHi) (hr : PollResult true s c)
      (hl : lineFails s = false) (hc : c ≠ 0#64) :
      StepCase e s (enterPoll phBitLo { passPoll s with idx := 0#6 })
  | bitLoFail (he : e = .engine) (hp : s.phase = phBitLo) (hr : PollResult false s 0#64)
      (hl : lineFails s = false) :
      StepCase e s (raiseFailure .timeoutBit s.idx (passPoll s))
  | bitLo (c : Count) (he : e = .engine) (hp : s.phase = phBitLo) (hr : PollResult false s c)
      (hl : lineFails s = false) (hc : c ≠ 0#64) :
      StepCase e s (enterPoll phBitHi { passPoll s with pm := pmSet s.pm (2 * s.idx.toNat) c })
  | bitHiFail (he : e = .engine) (hp : s.phase = phBitHi) (hr : PollResult true s 0#64)
      (hl : lineFails s = false) :
      StepCase e s (raiseFailure .timeoutBit s.idx (passPoll s))
  | bitHiLast (c : Count) (he : e = .engine) (hp : s.phase = phBitHi) (hr : PollResult true s c)
      (hl : lineFails s = false) (hc : c ≠ 0#64)
      (hi : s.idx = 39#6) : StepCase e s (enterPoll phAssemble { passPoll s with pm := pmSet s.pm 79 c })
  | bitHi (c : Count) (he : e = .engine) (hp : s.phase = phBitHi) (hr : PollResult true s c)
      (hl : lineFails s = false) (hc : c ≠ 0#64)
      (hi : s.idx ≠ 39#6) :
      StepCase e s
        (enterPoll phBitLo { passPoll s with pm := pmSet s.pm (2 * s.idx.toNat + 1) c, idx := s.idx + 1#6 })
  | assemble (he : e = .engine) (hp : s.phase = phAssemble) :
      StepCase e s
        { s with
          rf := assembled s
          txf := if checksumValid (assembled s) then s.txf else { kind := .checksumMismatch, idx := 0#6 }
          phase := phCommit }
  | commit (he : e = .engine) (hp : s.phase = phCommit) :
      StepCase e s
        { s with
          cr :=
            { tsv := true, ts := s.now, ok := s.txf.kind == .none, frame := s.rf.toF40, fkind := s.txf.kind
              fidx := s.txf.idx }
          phase := phRespond }
  | respondOk (he : e = .engine) (hp : s.phase = phRespond) (ho : s.cr.ok = true) :
      StepCase e s
        { s with
          result := .ok, index := 0#6, resHum := respondHum s, resTemp := respondTemp s, phase := phIdle }
  | respondFail (he : e = .engine) (hp : s.phase = phRespond) (ho : s.cr.ok = false) :
      StepCase e s
        { s with
          result := resultOfFail s.cr.fkind, index := s.cr.fidx, resHum := ResHum.clear, resTemp := ResTemp.clear
          phase := phIdle }

/-- A command's step is one of the acceptance cases. -/
theorem stepCase_command {v : Word} {s : State} (op : Byte) (ho : op = v.extractLsb' 0 8)
    (hw : Opcode.wf op = true) : StepCase (.host (.write .word cmdOffset v)) s (command op s) := by
  rcases command_cases op s with ⟨hb, h⟩ | ⟨hb, hc, h⟩ | ⟨hb, hc, hh, h⟩ | ⟨hb, hc, hh, hl, h⟩ | ⟨hb, hc, hh, hl, h⟩ <;>
    rw [h]
  · exact .overrun v _ (.inl rfl) rfl hb
  · exact .closedDriver v rfl (ho ▸ hw) hb hc
  · exact .hit v op rfl ho hw hb hc hh
  · exact .acceptFault v op rfl ho hw hb hc hh hl
  · exact .start v op rfl ho hw hb hc hh hl

/-- An engine step is one of the engine cases. -/
theorem stepCase_engine {s t : State} {i : Instr} (hd : decodePhase s.phase = .ok i) (h : exec i s = .next t) :
    StepCase .engine s t := by
  have hp := decodePhase_ok_encode hd
  cases i with
  | cap | capF | rdt | rdh | rdb | close => cases hp
  | idle =>
    injection hp with hp
    rw [execIdle_cases h]
    exact .wait rfl (by rw [← hp]; decide)
  | stab =>
    injection hp with hp
    rcases execStab_cases h with ⟨_, rfl⟩ | ⟨_, hl, rfl⟩ | ⟨hd, hl, rfl⟩
    · exact .wait rfl (by rw [← hp]; decide)
    · exact .engineFault rfl (by rw [← hp]; decide) hl
    · exact .stab rfl hp.symm hd hl
  | wakeLo =>
    injection hp with hp
    rcases execWakeLo_cases h with ⟨_, rfl⟩ | ⟨_, hl, rfl⟩ | ⟨hd, hl, rfl⟩
    · exact .wait rfl (by rw [← hp]; decide)
    · exact .engineFault rfl (by rw [← hp]; decide) hl
    · exact .wakeLo rfl hp.symm hd hl
  | wakeHi =>
    injection hp with hp
    rcases execWakeHi_cases h with ⟨_, rfl⟩ | ⟨_, hl, rfl⟩ | ⟨hd, hl, rfl⟩
    · exact .wait rfl (by rw [← hp]; decide)
    · exact .engineFault rfl (by rw [← hp]; decide) hl
    · exact .wakeHi rfl hp.symm hd hl
  | release =>
    injection hp with hp
    rcases execRelease_cases h with ⟨_, rfl⟩ | ⟨hd, rfl⟩
    · exact .wait rfl (by rw [← hp]; decide)
    · exact .release rfl hp.symm hd
  | ackLo =>
    injection hp with hp
    rw [exec_timer (i := .ackLo) rfl] at h
    injection h with h
    rcases pollStep_result false ackLoExit s with ⟨hl, e⟩ | ⟨hl, hm, hc, e⟩ | ⟨c, hl, hr, e⟩ <;> rw [e] at h <;> subst h
    · exact .engineFault rfl (by rw [← hp]; decide) hl
    · exact .count rfl (by simp [polling, ← hp]) hc hl
    · rcases ackLoExit_cases c (passPoll s) with ⟨rfl, e⟩ | ⟨hc, e⟩ <;> rw [e]
      · exact .ackLoFail rfl hp.symm hr hl
      · exact .ackLo c rfl hp.symm hr hl hc
  | ackHi =>
    injection hp with hp
    rw [exec_timer (i := .ackHi) rfl] at h
    injection h with h
    rcases pollStep_result true ackHiExit s with ⟨hl, e⟩ | ⟨hl, hm, hc, e⟩ | ⟨c, hl, hr, e⟩ <;> rw [e] at h <;> subst h
    · exact .engineFault rfl (by rw [← hp]; decide) hl
    · exact .count rfl (by simp [polling, ← hp]) hc hl
    · rcases ackHiExit_cases c (passPoll s) with ⟨rfl, e⟩ | ⟨hc, e⟩ <;> rw [e]
      · exact .ackHiFail rfl hp.symm hr hl
      · exact .ackHi c rfl hp.symm hr hl hc
  | bitLo =>
    injection hp with hp
    rw [exec_timer (i := .bitLo) rfl] at h
    injection h with h
    rcases pollStep_result false bitLoExit s with ⟨hl, e⟩ | ⟨hl, hm, hc, e⟩ | ⟨c, hl, hr, e⟩ <;> rw [e] at h <;> subst h
    · exact .engineFault rfl (by rw [← hp]; decide) hl
    · exact .count rfl (by simp [polling, ← hp]) hc hl
    · rcases bitLoExit_cases c (passPoll s) with ⟨rfl, e⟩ | ⟨hc, e⟩ <;> rw [e]
      · exact .bitLoFail rfl hp.symm hr hl
      · exact .bitLo c rfl hp.symm hr hl hc
  | bitHi =>
    injection hp with hp
    rw [exec_timer (i := .bitHi) rfl] at h
    injection h with h
    rcases pollStep_result true bitHiExit s with ⟨hl, e⟩ | ⟨hl, hm, hc, e⟩ | ⟨c, hl, hr, e⟩ <;> rw [e] at h <;> subst h
    · exact .engineFault rfl (by rw [← hp]; decide) hl
    · exact .count rfl (by simp [polling, ← hp]) hc hl
    · rcases bitHiExit_cases c (passPoll s) with ⟨rfl, e⟩ | ⟨hc, hi, e⟩ | ⟨hc, hi, e⟩ <;> rw [e]
      · exact .bitHiFail rfl hp.symm hr hl
      · exact .bitHiLast c rfl hp.symm hr hl hc hi
      · exact .bitHi c rfl hp.symm hr hl hc hi
  | assemble =>
    injection hp with hp
    injection h with h
    subst h
    exact .assemble rfl hp.symm
  | commit =>
    injection hp with hp
    injection h with h
    subst h
    exact .commit rfl hp.symm
  | respond =>
    injection hp with hp
    rcases execRespond_cases h with ⟨ho, rfl⟩ | ⟨ho, rfl⟩
    · exact .respondOk rfl hp.symm ho
    · exact .respondFail rfl hp.symm ho

/-- Every event that is not refused is one of the cases. -/
theorem runEvent_stepCase {e : Event} {s t : State} (h : runEvent e s = .next t) :
    PortCase e s t ∨ (s.rst = true ∧ t = s) ∨ (s.rst = false ∧ StepCase e s t) := by
  cases hr : s.rst with
  | true => exact (runEvent_held hr h).elim (fun h => .inr (.inl ⟨rfl, h⟩)) .inl
  | false =>
    have running : StepCase e s t → PortCase e s t ∨ (false = true ∧ t = s) ∨ (false = false ∧ StepCase e s t) :=
      fun h => .inr (.inr ⟨rfl, h⟩)
    rcases runEvent_cases hr h with ⟨rfl, i, hd, hx⟩ | ⟨v, rfl, _⟩ | ⟨v, rfl, _⟩ | ⟨a, v, rfl, rfl⟩ | ⟨us, rfl, rfl⟩ | h'
    · exact running (stepCase_engine hd hx)
    · rw [runEvent_writeCmd v hr] at h
      injection h with h
      subst h
      refine running ?_
      split
      · exact stepCase_command _ rfl ‹_›
      · rename_i hw
        rcases illegalCommand_cases s with ⟨hb, e⟩ | ⟨hb, e⟩ <;> rw [e]
        · exact .overrun v _ (.inl rfl) rfl hb
        · exact .illegal v rfl hb (by simpa using hw)
    · rw [runEvent_writeCtrl v hr] at h
      injection h with h
      subst h
      refine running ?_
      split
      · rcases closeDriver_cases s with ⟨hb, e⟩ | ⟨hb, e⟩ <;> rw [e]
        · exact .overrun v _ (.inr rfl) rfl hb
        · exact .close v rfl hb
      · rcases ctrlNoOperation_cases s with ⟨hb, e⟩ | ⟨hb, e⟩ <;> rw [e]
        · exact .overrun v _ (.inr rfl) rfl hb
        · exact .ignoredWrite v _ rfl
    · exact running (.ignoredWrite v a rfl)
    · exact running (.tick us rfl)
    · exact .inl h'

/-- Every step that is not refused: an event on a port; nothing, while `rst` is held; or one of the cases. -/
theorem step_stepCase {s t : State} (h : step s = .next t) :
    PortCase (takeEvent s).1 (takeEvent s).2 t ∨ ((takeEvent s).2.rst = true ∧ t = (takeEvent s).2) ∨
      ((takeEvent s).2.rst = false ∧ StepCase (takeEvent s).1 (takeEvent s).2 t) :=
  runEvent_stepCase h

end Sys2Proof.Machine
end

