-- ==== Sys2Proof/Tests/Slice0.lean ====
section
/-! SUPPORT. Tests on small states, and for every statement with hypotheses a concrete input that meets them. Expected
values are the spec's: 95_test_vectors.md (V, P, E numbers) and the worked examples of the rules. -/

namespace Sys2Proof.Tests

open Sys2Proof.Machine Sys2Proof.Stated

/-! ## Helpers -/

/-- A machine after reset: `MAX_CYCLES = mc`, `T_POLL` = 1 µs, a pad that may fail. -/
def machine (mc : Nat) (v : SensorVariant) : State :=
  State.afterReset
    { maxCycles := BitVec.ofNat 64 mc, tPollNs := 1000, ioFaultPossible := true, rendering := .correctlyRounded } v

/-- `MAX_CYCLES = 4`, Type22. -/
def base : State := machine 4 .type22

/-- `base` with `rst` held. -/
def held : State := resetBlock .type22 base

/-- `base` in a phase. -/
def inPhase (code : BitVec 4) : State := { base with phase := code }

/-- The next event is `e`. -/
def next (e : Event) (s : State) : State := { s with inputs := [e] }

/-- The next event is a host write. -/
def write (addr : Offset) (v : Word) (s : State) : State := next (.host (.write .word addr v)) s

/-- What a field of the next state is, when there is one. -/
def stepTo {α : Type} (f : State → α) (s : State) : Option α :=
  match step s with
  | .next t => some (f t)
  | .fault _ => none
  | .refused _ => none

/-- A frame from its five bytes as numbers. -/
def frame (b0 b1 b2 b3 b4 : Nat) : Frame :=
  { b0 := BitVec.ofNat 8 b0, b1 := BitVec.ofNat 8 b1, b2 := BitVec.ofNat 8 b2, b3 := BitVec.ofNat 8 b3
    b4 := BitVec.ofNat 8 b4 }

/-- A cached success at 273 961 µs (the end of program P1). -/
def good (f : Frame) : CachedReading :=
  { tsv := true, ts := 273961, ok := true, frame := f.toF40, fkind := .none, fidx := 0#6 }

/-- The end state of program P1, at time `now`. -/
def p1 (now : Nat) : State :=
  { machine 1000 .type22 with
    cr := good (frame 0x02 0x8C 0x01 0x5D 0xEC), result := .ok, idx := 39#6, cmdl := 0x0C#8, now := now }

/-- RESPOND with a cached success. -/
def responding (op : Byte) (v : SensorVariant) (f : Frame) : State :=
  { machine 1000 v with phase := 11#4, cmdl := op, cr := good f }

/-! ## Well-formedness: one ill-formed term for each check -/

theorem test_wf_opcode : Opcode.wf 0x02#8 = false ∧ Opcode.wf 0x05#8 = false ∧ Opcode.wf 0x00#8 = false ∧
    Opcode.wf 0x14#8 = false ∧ Opcode.wf 0x0C#8 = true := by decide
theorem test_wf_close : (FetchWord.ctrl 0#1).wf = false ∧ (FetchWord.ctrl 1#1).wf = true := by decide
theorem test_wf_phase : (FetchWord.phase 12#4).wf = false ∧ (FetchWord.phase 11#4).wf = true := by decide
theorem test_wf_offset : Offset.aligned 0x002#12 = false ∧ Offset.aligned 0xFFC#12 = true := by decide
theorem test_wf_read : (HostAccess.read .word 0x001#12).wf = false ∧ (HostAccess.read .half 0x004#12).wf = false ∧
    (HostAccess.read .word 0x004#12).wf = true := by decide
theorem test_wf_write : (HostAccess.write .byte 0x000#12 1#32).wf = false ∧
    (HostAccess.write .word 0x003#12 1#32).wf = false ∧ (HostAccess.write .word 0x000#12 1#32).wf = true := by decide
theorem test_wf_event : (Event.reset 3#2).wf = false ∧ (Event.reset 2#2).wf = true ∧
    (Event.host (.read .byte 0x000#12)).wf = false ∧ Event.release.wf = true := by decide

/-! ## Decoding: the words of 30_encoding.md R62, R64, R65, written out -/

theorem test_decode_cap : decode (.cmd 0b00000001#8) = .ok .cap := by decide
theorem test_decode_capF : decode (.cmd 0b00000011#8) = .ok .capF := by decide
theorem test_decode_rdt : decode (.cmd 0b00000100#8) = .ok .rdt := by decide
theorem test_decode_rdh : decode (.cmd 0b00001000#8) = .ok .rdh := by decide
theorem test_decode_rdb : decode (.cmd 0b00001100#8) = .ok .rdb := by decide
theorem test_decode_close : decode (.ctrl 0b1#1) = .ok .close := by decide
theorem test_decode_idle : decode (.phase 0b0000#4) = .ok .idle := by decide
theorem test_decode_stab : decode (.phase 0b0001#4) = .ok .stab := by decide
theorem test_decode_wakeLo : decode (.phase 0b0010#4) = .ok .wakeLo := by decide
theorem test_decode_wakeHi : decode (.phase 0b0011#4) = .ok .wakeHi := by decide
theorem test_decode_release : decode (.phase 0b0100#4) = .ok .release := by decide
theorem test_decode_ackLo : decode (.phase 0b0101#4) = .ok .ackLo := by decide
theorem test_decode_ackHi : decode (.phase 0b0110#4) = .ok .ackHi := by decide
theorem test_decode_bitLo : decode (.phase 0b0111#4) = .ok .bitLo := by decide
theorem test_decode_bitHi : decode (.phase 0b1000#4) = .ok .bitHi := by decide
theorem test_decode_assemble : decode (.phase 0b1001#4) = .ok .assemble := by decide
theorem test_decode_commit : decode (.phase 0b1010#4) = .ok .commit := by decide
theorem test_decode_respond : decode (.phase 0b1011#4) = .ok .respond := by decide

/-- The illegal opcodes V67 lists. -/
theorem test_decode_illegal_V67 : ∀ op ∈ [0x00#8, 0x02#8, 0x05#8, 0x06#8, 0x07#8, 0x09#8, 0x0A#8, 0x0B#8, 0x0D#8, 0x0E#8,
    0x0F#8, 0x10#8, 0x11#8, 0x80#8, 0x81#8, 0xFF#8], decode (.cmd op) = .error (.illegalOpcode op) := by decide
theorem test_decode_rejects : decode (.ctrl 0#1) = .error .noOperation ∧
    decode (.phase 13#4) = .error (.reservedPhase 13#4) := by decide
theorem test_table_words : decodeTableWord 8 0x0C = some .rdb ∧ decodeTableWord 1 1 = some .close ∧
    decodeTableWord 4 1 = some .stab ∧ decodeTableWord 8 0xA = some .commit ∧ decodeTableWord 8 0xFF = none := by decide

/-- The word placed in a state is what the next step runs: `CAP` is accepted, and a word of `PHASE` is stepped. -/
theorem test_withFetchWord_command : stepTo (fun t => (t.cmdl, t.phase)) (State.withFetchWord base 8 0x04)
    = some (0x04#8, 1#4) := by decide
theorem test_withFetchWord_phase : stepTo State.phase (State.withFetchWord base 8 0xA) = some 11#4 := by decide
theorem test_withFetchWord_close : stepTo State.closed (State.withFetchWord held 1 1) = some true := by decide

/-! ## The data path -/

/-- V10 to V19, the samples as booleans. -/
theorem test_expectPulse_V10_V19 :
    expectPulse false 4 0 [false, false, true] = some (2, []) ∧
    expectPulse false 4 0 [false, false, false, true] = some (3, []) ∧
    expectPulse false 4 0 [false, false, false, false, false] = some (0, [false]) ∧
    expectPulse true 4 0 [true, true, true, true, false] = some (0, [false]) ∧
    expectPulse false 4 0 [true] = some (0, []) ∧ expectPulse false 1 0 [false] = some (0, []) ∧
    expectPulse true 0 0 [true] = some (0, []) ∧ expectPulse true 2 0 [true, false] = some (1, []) ∧
    expectPulse true 2 0 [true, true] = some (0, []) := by decide

/-- V20 to V27: the bit of a low and a high count. -/
def bitOf (lo hi : Nat) : Bool := frameBit (pmSet (pmSet pmZero 6 (BitVec.ofNat 64 lo)) 7 (BitVec.ofNat 64 hi)) 3

theorem test_frameBit_V20_V27 : bitOf 49 27 = false ∧ bitOf 49 69 = true ∧ bitOf 49 49 = false ∧ bitOf 49 50 = true ∧
    bitOf 1 1 = false ∧ bitOf 1 2 = true ∧ bitOf 0x100000000 0xFFFFFFFF = false := by decide

/-- V30, V31, V34, V37 valid, V33, V35, V36 not; V30 and V33 as `F40`. -/
theorem test_checksum_V30_V37 : checksumValid (frame 0x02 0x8C 0x01 0x5D 0xEC) = true ∧
    checksumValid (frame 0x12 0x34 0x85 0x67 0x32) = true ∧ checksumValid (frame 0xFF 0xFF 0xFF 0xFF 0xFC) = true ∧
    checksumValid (frame 0x01 0x5E 0x80 0x65 0x44) = true ∧ checksumValid (frame 0xFF 0xFF 0xFF 0xFF 0xFF) = false ∧
    checksumValid (frame 0x02 0x8C 0x01 0x5D 0xED) = false ∧ checksumValid (frame 0x02 0x8C 0x01 0x1D 0xEC) = false := by
  decide
theorem test_f40_V30 : (frame 0x02 0x8C 0x01 0x5D 0xEC).toF40 = 0x028C015DEC#40 ∧
    frameOfF40 0x1234856732#40 = frame 0x12 0x34 0x85 0x67 0x32 := by decide

/-- The bits of V30 in arrival order. -/
def bitsV30 (i : Nat) : Bool := i ∈ [6, 8, 12, 13, 23, 25, 27, 28, 29, 31, 32, 33, 34, 36, 37]

theorem test_pack_V30 : pack bitsV30 = frame 0x02 0x8C 0x01 0x5D 0xEC := by decide

/-- `RES_HUM` and `RES_TEMP` of a frame, as `RDB` shows them. -/
def shown (v : SensorVariant) (f : Frame) : Word × Word :=
  (resHumWord (respondHum (responding 0x0C#8 v f)), resTempWord (respondTemp (responding 0x0C#8 v f)))

theorem test_decoder_V42_V47 : shown .type22 (frame 0x02 0x8C 0x81 0x5D 0x6C) = (0x8000028C#32, 0xC000FEA3#32) ∧
    shown .type21 (frame 0x01 0x5E 0x80 0x65 0x44) = (0x8000015E#32, 0xC000FF9B#32) ∧
    shown .type22 (frame 0x00 0x00 0x80 0x00 0x80) = (0x80000000#32, 0xC0000000#32) ∧
    shown .type22 (frame 0xFF 0xFF 0x7F 0xFF 0x7C) = (0x8000FFFF#32, 0x80007FFF#32) ∧
    shown .type22 (frame 0xFF 0xFF 0xFF 0xFF 0xFC) = (0x8000FFFF#32, 0xC0008001#32) := by decide
theorem test_decoder_V50_V53 : shown .type11 (frame 0x37 0x05 0x18 0x09 0x5D) = (0x80000226#32, 0x800000F0#32) ∧
    shown .type11 (frame 0xFF 0x00 0xFF 0x00 0xFE) = (0x800009F6#32, 0x800009F6#32) ∧
    shown .type11 (frame 0x00 0x00 0x80 0x00 0x80) = (0x80000000#32, 0x80000500#32) := by decide

/-- The default rendering of a magnitude. -/
def f32 (neg : Bool) (mag : Nat) : Word := f32View .correctlyRounded true neg (BitVec.ofNat 16 mag)

/-- The binary32 examples of R147 and of V45 to V56. -/
theorem test_f32_R147 : f32 false 652 = 0x42826666#32 ∧ f32 false 349 = 0x420B999A#32 ∧ f32 false 345 = 0x420A0000#32 ∧
    f32 false 644 = 0x4280CCCD#32 ∧ f32 true 101 = 0xC121999A#32 ∧ f32 true 0 = 0x80000000#32 := by decide
theorem test_f32_V46_V56 : f32 false 65535 = 0x45CCCC00#32 ∧ f32 false 32767 = 0x454CCB33#32 ∧
    f32 false 1 = 0x3DCCCCCD#32 ∧ f32 false 9 = 0x3F666666#32 ∧ f32 false 13 = 0x3FA66666#32 ∧
    f32 false 10 = 0x3F800000#32 := by decide

/-- R25, R146: in a rendering the instance supplies, an invalid value is 0 and negative zero keeps its sign. -/
theorem test_f32_supplied : f32View (.supplied 7) false true 652#16 = 0#32 ∧
    f32View (.supplied 7) true true 0#16 = 0x80000000#32 := by decide

/-! ## The commands -/

/-- V63, V64: 1 999 999 µs after the last attempt a hit, at 2 000 000 µs a transaction. -/
theorem test_cap_V63 : stepTo (fun t => (t.hit, t.phase)) (write 0x000#12 0x01#32 (p1 2273960)) = some (true, 11#4) := by
  decide
theorem test_cap_V64 : stepTo (fun t => (t.hit, t.phase)) (write 0x000#12 0x01#32 (p1 2273961)) = some (false, 1#4) := by
  decide
/-- V65. -/
theorem test_capF_V65 : stepTo (fun t => (t.hit, t.phase, t.lineDir)) (write 0x000#12 0x03#32 (p1 273962))
    = some (false, 1#4, Dir.output) := by decide
/-- V62, V61, V66: hits, with `CMDL` latched; bits 31:8 are ignored. -/
theorem test_rdt_V62 : stepTo (fun t => (t.cmdl, t.hit, t.phase)) (write 0x000#12 0x04#32 (p1 273961))
    = some (0x04#8, true, 11#4) := by decide
theorem test_rdh_V61 : stepTo (fun t => (t.cmdl, t.hit, t.phase)) (write 0x000#12 0x08#32 (p1 1273961))
    = some (0x08#8, true, 11#4) := by decide
theorem test_rdb_V66 : stepTo (fun t => (t.cmdl, t.hit, t.phase)) (write 0x000#12 0x0000010C#32 (p1 1273961))
    = some (0x0C#8, true, 11#4) := by decide
/-- V67 and P9 step 1: `STATUS` after an illegal opcode. -/
theorem test_illegal_V67 : stepTo statusWord (write 0x000#12 0x02#32 (p1 273961)) = some 0x02700070#32 := by decide
/-- P9 steps 3 and 4: `CLOSE` after the hit of step 2, then ClosedDriver though the cache is fresh. -/
theorem test_close_P9 : stepTo statusWord (write 0x008#12 0x01#32 { p1 273961 with hit := true }) = some 0x0270001A#32 := by
  decide
theorem test_closed_P9 : stepTo (fun t => (statusWord t, cacheWord t))
    (write 0x000#12 0x0C#32 { p1 273961 with hit := true, closed := true }) = some (0x02700068#32, 0x00000003#32) := by decide
/-- P10 steps 2 and 3: a write while busy. -/
theorem test_overrun_P10 : stepTo (fun t => (statusWord t, t.cmdl))
    (write 0x000#12 0x0C#32 { inPhase 1#4 with cmdl := 0x01#8 }) = some (0x00010005#32, 0x01#8) := by decide

/-! ## The phases -/

theorem test_idle : stepTo State.phase (next .engine base) = some 0#4 := by decide
/-- P1's trace: WAKE_LO is entered at 250 000, WAKE_HI at 270 000, RELEASE at 270 040, ACK_LO at 270 050. -/
theorem test_stab_P1 : stepTo (fun t => (t.phase, t.lineLvl, t.tEnter)) (next .engine { inPhase 1#4 with now := 250000 })
    = some (2#4, false, 250000) := by decide
theorem test_stab_waits : stepTo State.phase (next .engine { inPhase 1#4 with now := 249999 }) = some 1#4 := by decide
theorem test_wakeLo_P1 : stepTo (fun t => (t.phase, t.lineLvl))
    (next .engine { inPhase 2#4 with now := 270000, tEnter := 250000, lineLvl := false }) = some (3#4, true) := by decide
theorem test_wakeHi_P1 : stepTo (fun t => (t.phase, t.lineDir, t.lineLvl))
    (next .engine { inPhase 3#4 with now := 270040, tEnter := 270000, lineDir := .output }) = some (4#4, Dir.input, true) := by
  decide
theorem test_release_P1 : stepTo (fun t => (t.phase, t.ptCnt))
    (next .engine { inPhase 4#4 with now := 270050, tEnter := 270040 }) = some (5#4, 0#64) := by decide
/-- V73: the first sample is 1: TimeoutAck, COMMIT one polling cycle later. -/
theorem test_ackLo_V73 : stepTo (fun t => (t.phase, t.txf.kind, t.now)) (next .engine { inPhase 5#4 with now := 270050 })
    = some (10#4, FailKind.timeoutAck, 270051) := by decide
/-- The trace of V12: the sample that finds `PT_CNT + 1 = 4 >= 4` ends the call with 0; that of V11 counts to 3. -/
theorem test_ackLo_V11 : stepTo (fun t => (t.phase, t.ptCnt)) (next .engine { inPhase 5#4 with ptCnt := 2#64, lineIn := false })
    = some (5#4, 3#64) := by decide
theorem test_ackHi_V13 : stepTo (fun t => (t.phase, t.txf.kind, t.ptCnt)) (next .engine { inPhase 6#4 with ptCnt := 3#64 })
    = some (10#4, FailKind.timeoutAck, 0#64) := by decide
theorem test_ackHi_exit : stepTo (fun t => (t.phase, t.idx))
    (next .engine { inPhase 6#4 with ptCnt := 3#64, lineIn := false, idx := 9#6 }) = some (7#4, 0#6) := by decide
/-- P8 (b): BIT_LO of pair 9 stores `PM[18]`. -/
theorem test_bitLo_P8 : stepTo (fun t => (t.phase, pmEntry t.pm 18, pmEntry t.pm 19))
    (next .engine { inPhase 7#4 with ptCnt := 3#64, idx := 9#6 }) = some (8#4, 3#64, 0#64) := by decide
/-- P4 (a): stuck low in BIT_LO of pair 17. -/
theorem test_bitLo_P4 : stepTo (fun t => (t.phase, t.txf))
    (next .engine { inPhase 7#4 with ptCnt := 3#64, idx := 17#6, lineIn := false })
    = some (10#4, { kind := .timeoutBit, idx := 17#6 }) := by decide
theorem test_bitHi_next : stepTo (fun t => (t.phase, t.idx, pmEntry t.pm 13))
    (next .engine { inPhase 8#4 with ptCnt := 3#64, idx := 6#6, lineIn := false }) = some (7#4, 7#6, 3#64) := by decide
/-- After pair 39 the assembler runs, and `IDX` stays 39. -/
theorem test_bitHi_last : stepTo (fun t => (t.phase, t.idx, pmEntry t.pm 79))
    (next .engine { inPhase 8#4 with ptCnt := 2#64, idx := 39#6, lineIn := false }) = some (9#4, 39#6, 2#64) := by decide
/-- V79: equal counts give the all-zero frame, which is valid. -/
theorem test_assemble_V79 : stepTo (fun t => (t.phase, t.rf, t.txf.kind))
    (next .engine { inPhase 9#4 with pm := Vector.replicate 80 3#64 }) = some (10#4, frame 0 0 0 0 0, FailKind.none) := by
  decide
/-- P3 step 3: the bytes received are kept after a checksum mismatch, and COMMIT shows it in `CACHE`. -/
theorem test_commit_P3 : stepTo (fun t => (cacheWord t, regRead t 0x018#12, regRead t 0x01C#12, t.cr.ts, t.phase))
    (next .engine
      { inPhase 10#4 with rf := frame 0x02 0x8C 0x01 0x5D 0xED, txf := { kind := .checksumMismatch, idx := 0#6 }, now := 2544054 })
    = some (0x00000041#32, 0x8C015DED#32, 0x00000002#32, 2544054, 11#4) := by decide
/-- V40 and the example of R161: `RDT` selects the temperature only. -/
theorem test_respond_R161 : stepTo (fun t => (regRead t 0x028#12, regRead t 0x02C#12, regRead t 0x034#12))
    (next .engine (responding 0x04#8 .type22 (frame 0x02 0x8C 0x01 0x5D 0xEC)))
    = some (0x00000000#32, 0x8000015D#32, 0x420B999A#32) := by decide
/-- P4 (a): `STATUS` after a TimeoutBit of pair 17. -/
theorem test_respond_P4 : stepTo statusWord
    (next .engine
      { responding 0x04#8 .type21 (frame 0 0 0 0 0) with
        idx := 17#6
        cr := { tsv := true, ts := 272705, ok := false, frame := 0#40, fkind := .timeoutBit, fidx := 17#6 } })
    = some 0x01101130#32 := by decide

/-! ## Faults of the line, accesses, reset -/

/-- P8 step 2: the exit step of STAB under a fault; the pad stays driven high. -/
theorem test_ioError_P8 : stepTo (fun t => (statusWord t, cacheWord t, t.lineDir, t.lineLvl))
    (next .engine { inPhase 1#4 with now := 250000, lineFault := true, lineDir := .output })
    = some (0x00000050#32, 0x00000000#32, Dir.output, true) := by decide
/-- P1: `CFG` and `MAXCYC`. -/
theorem test_read_P1 : stepTo State.hostData (next (.host (.read .word 0x00C#12)) (p1 0)) = some 0x00000002#32 ∧
    stepTo State.hostData (next (.host (.read .word 0x010#12)) (p1 0)) = some 0x000003E8#32 := by decide
/-- P1's end state: `PM[12]` and `PM[13]` through the window. -/
theorem test_window_P1 : regRead { base with pm := pmSet (pmSet pmZero 12 49#64) 13 69#64 } 0x460#12 = 49#32 ∧
    regRead { base with pm := pmSet (pmSet pmZero 12 49#64) 13 69#64 } 0x468#12 = 69#32 := by decide
theorem test_access_refused : step (next (.host (.read .half 0x004#12)) base)
    = .refused (.accessNotAlignedWord .half 0x004#12) := by rfl
theorem test_strap_refused : step (next (.reset 3#2) base) = .refused .reservedVariant := by rfl
/-- P11: reset in WAKE_LO. -/
theorem test_reset_P11 : stepTo (fun t => (statusWord t, cacheWord t, t.lineDir, t.now, t.variant))
    (next (.reset 1#2) { inPhase 2#4 with now := 260000, lineDir := .output, lineLvl := false })
    = some (0#32, 0#32, Dir.input, 0, SensorVariant.type21) := by decide
/-- R210: while `rst` is held time does not advance, a command is not accepted, not even as an overrun, and the release
leaves the reset values. -/
theorem test_reset_held : stepTo (fun t => (t.rst, t.now)) (next (.tick 7) held) = some (true, 0) ∧
    stepTo (fun t => (t.phase, t.hit, t.ovr)) (write 0x000#12 0x01#32 held) = some (0#4, false, false) := by decide
theorem test_reset_release : stepTo (fun t => (t.rst, t.now, t.phase)) (next .release held) = some (false, 0, 0#4) := by
  decide

/-! ## Witnesses: concrete inputs that meet the hypotheses of each statement, clause by clause, at the boundaries -/

/-- A machine with an attempt in its cache, committed at 1000 µs, at time `now`. -/
def cached (now : Nat) (ok : Bool) : State :=
  { base with
    now := now
    cr :=
      { tsv := true, ts := 1000, ok := ok, frame := 0#40, fkind := if ok then .none else .timeoutBit
        fidx := if ok then 0#6 else 39#6 } }

/-- BIT_HI of pair 0, its low count stored, a sample that ends the pulse on the pad. -/
def measuring : State :=
  { base with
    phase := 8#4, cmdl := 0x0C#8, ptCnt := 3#64, lineIn := false, pm := pmSet pmZero 0 2#64, now := 270060, tEnter := 270040 }

theorem witness_CommandOpcodesDecode : (Instr.rdb, 0x0C#8) ∈ commandRows ∧ decode (.cmd 0x0C#8) = .ok .rdb := by decide
theorem witness_CloseAndPhaseCodesDecode :
    (Instr.respond, 11#4) ∈ phaseRows ∧ 12 ≤ (12#4).toNat ∧ 12 ≤ (15#4).toNat := by decide
theorem witness_DecodeEncodeAgree : decode (.cmd 0x03#8) = .ok .capF ∧ decode (.ctrl 1#1) = .ok .close ∧
    decode (.phase 11#4) = .ok .respond := by decide
theorem witness_StepRunsDecodedInstruction :
    (next .engine base).inputs = .engine :: [] ∧
    ((next .engine measuring).rst = false ∧ event (next .engine measuring) = .engine ∧
      decode (.phase (next .engine measuring).phase) = .ok .bitHi) ∧
    ((write 0x000#12 0xFFFFFF0C#32 base).rst = false ∧
      event (write 0x000#12 0xFFFFFF0C#32 base) = .host (.write .word 0x000#12 0xFFFFFF0C#32) ∧
      decode (.cmd ((0xFFFFFF0C#32).extractLsb' 0 8)) = .ok .rdb) ∧
    ((write 0x008#12 0x00000001#32 base).rst = false ∧
      event (write 0x008#12 0x00000001#32 base) = .host (.write .word 0x008#12 0x00000001#32) ∧
      (0x00000001#32).getLsbD 0 = true) ∧
    (held.rst = true ∧ event (next .engine held) = .engine ∧
      event (write 0x000#12 0x01#32 held) = .host (.write .word 0x000#12 0x01#32) ∧
      event (write 0x008#12 0x01#32 held) = .host (.write .word 0x008#12 0x01#32)) := by decide
theorem witness_ReservedPhaseIsRefused :
    ((next .engine (inPhase 12#4)).rst = false ∧ event (next .engine (inPhase 12#4)) = .engine ∧
      12 ≤ (next .engine (inPhase 12#4)).phase.toNat) ∧
    ((next .engine (inPhase 15#4)).rst = false ∧ event (next .engine (inPhase 15#4)) = .engine ∧
      12 ≤ (next .engine (inPhase 15#4)).phase.toNat) := by decide

/-- One state for each branch: illegal, closed, a hit at 1 999 999 µs, a line fault, a transaction at 2 000 000 µs. -/
theorem witness_CmdWriteInIdleIsAccepted :
    (event (write 0x000#12 0x02#32 base) = .host (.write .word 0x000#12 0x02#32) ∧
      (write 0x000#12 0x02#32 base).rst = false ∧ (write 0x000#12 0x02#32 base).phase = 0#4 ∧
      (0x02#32).extractLsb' 0 8 ∉ [0x01#8, 0x03#8, 0x04#8, 0x08#8, 0x0C#8]) ∧
    (event (write 0x000#12 0x01#32 { base with closed := true }) = .host (.write .word 0x000#12 0x01#32) ∧
      base.rst = false ∧ (write 0x000#12 0x01#32 { base with closed := true }).closed = true) ∧
    (event (write 0x000#12 0x01#32 (cached 2000999 true)) = .host (.write .word 0x000#12 0x01#32) ∧
      (cached 2000999 true).rst = false ∧ Hits 0x01#8 (cached 2000999 true)) ∧
    (event (write 0x000#12 0x01#32 { base with lineFault := true }) = .host (.write .word 0x000#12 0x01#32) ∧
      LineBad { base with lineFault := true }) ∧
    (event (write 0x000#12 0x01#32 (cached 2001000 true)) = .host (.write .word 0x000#12 0x01#32) ∧
      ¬ Hits 0x01#8 (cached 2001000 true) ∧ ¬ LineBad (cached 2001000 true)) := by decide
theorem witness_CacheHitAnswersAtAcceptance :
    ((Instr.rdh, 0x08#8) ∈ commandRows ∧ (cached 2000999 true).phase = 0#4 ∧ (cached 2000999 true).closed = false ∧
      Hits 0x08#8 (cached 2000999 true)) ∧ Hits 0x01#8 (cached 1000 false) := by decide
theorem witness_FreshCommandStartsTransaction :
    ((Instr.capF, 0x03#8) ∈ commandRows ∧ (cached 1000 true).phase = 0#4 ∧ (cached 1000 true).closed = false ∧
      LineOk (cached 1000 true) ∧ (Instr.capF, 0x03#8).1 = .capF) ∧
    ((Instr.rdt, 0x04#8) ∈ commandRows ∧ base.phase = 0#4 ∧ base.closed = false ∧ LineOk base ∧ base.cr.tsv = false) ∧
    ((Instr.rdb, 0x0C#8) ∈ commandRows ∧ LineOk (cached 2001000 true) ∧
      (cached 2001000 true).cr.ts + 2000000 ≤ (cached 2001000 true).now) := by decide
theorem witness_ThrottleIsStrictAndKeepsCache :
    (∃ t, exec .cap (cached 2000999 true) = .next t ∧ t.phase = 11#4) ∧
    (∃ t, exec .cap (cached 2001000 true) = .next t ∧ t.phase = 1#4) ∧
    ((Instr.cap, 0x01#8) ∈ commandRows ∧ (cached 2001000 true).phase = 0#4 ∧ (cached 2001000 true).closed = false ∧
      LineOk (cached 2001000 true) ∧ (cached 2001000 true).cr.tsv = true) :=
  ⟨⟨_, rfl, by decide⟩, ⟨_, rfl, by decide⟩, by decide⟩
theorem witness_FirstCommandAfterResetTransacts :
    ∃ t, event (next (.reset 0#2) measuring) = .reset 0#2 ∧ step (next (.reset 0#2) measuring) = .next t ∧
      (Instr.cap, 0x01#8) ∈ commandRows ∧ ({ base with now := 1000 } : State).cr = t.cr ∧ base.phase = 0#4 ∧
      base.closed = false ∧ LineOk base := ⟨_, by decide, rfl, by decide, by decide, by decide, by decide, by decide⟩
theorem witness_WriteWhileBusyOnlySetsOverrun :
    ((write 0x000#12 0x0C#32 measuring).rst = false ∧
      event (write 0x000#12 0x0C#32 measuring) = .host (.write .word 0x000#12 0x0C#32) ∧ (write 0x000#12 0x0C#32 measuring).phase ≠ 0#4) ∧
    ((write 0x008#12 0x01#32 (inPhase 11#4)).rst = false ∧
      event (write 0x008#12 0x01#32 (inPhase 11#4)) = .host (.write .word 0x008#12 0x01#32) ∧
      (write 0x008#12 0x01#32 (inPhase 11#4)).phase ≠ 0#4) ∧
    (Instr.close ∈ [Instr.cap, .capF, .rdt, .rdh, .rdb, .close] ∧ (inPhase 1#4).phase ≠ 0#4) := by decide
theorem witness_WriteWhileBusyOnlySetsOverrun_sticky :
    ∃ t, step (next .engine { measuring with ovr := true }) = .next t ∧
      (next .engine { measuring with ovr := true }).ovr = true ∧ ¬ resets (next .engine { measuring with ovr := true }) :=
  ⟨_, rfl, rfl, fun ⟨_, h⟩ => by cases h⟩
theorem witness_ClosedDriverAnswersUntilReset :
    base.phase = 0#4 ∧
    ((write 0x008#12 0x03#32 base).rst = false ∧
      event (write 0x008#12 0x03#32 base) = .host (.write .word 0x008#12 0x03#32) ∧ (0x03#32).getLsbD 0 = true) ∧
    measuring.phase ≠ 0#4 ∧
    ((Instr.capF, 0x03#8) ∈ commandRows ∧ ({ base with closed := true } : State).phase = 0#4 ∧
      ({ base with closed := true } : State).closed = true) ∧
    ∃ t, step (write 0x008#12 0#32 { base with closed := true }) = .next t ∧
      (write 0x008#12 0#32 { base with closed := true }).closed = true ∧
      ¬ resets (write 0x008#12 0#32 { base with closed := true }) :=
  ⟨rfl, by decide, by decide, by decide, _, rfl, rfl, fun ⟨_, h⟩ => by cases h⟩
theorem witness_IllegalOpcodeCompletesAtOnce :
    (write 0x000#12 0xFF#32 { base with closed := true }).rst = false ∧
    event (write 0x000#12 0xFF#32 { base with closed := true }) = .host (.write .word 0x000#12 0xFF#32) ∧
    (write 0x000#12 0xFF#32 { base with closed := true }).phase = 0#4 ∧
    (0xFF#32).extractLsb' 0 8 ∉ [0x01#8, 0x03#8, 0x04#8, 0x08#8, 0x0C#8] := by decide
theorem witness_LineFaultReplacesTheStep :
    (LineBad { base with lineFault := true } ∧ IssuesPrimitive .cap { base with lineFault := true }) ∧
    (LineBad { inPhase 1#4 with lineFault := true, now := 250000 } ∧
      IssuesPrimitive .stab { inPhase 1#4 with lineFault := true, now := 250000 }) ∧
    IssuesPrimitive .wakeLo { inPhase 2#4 with lineFault := true, now := 20000 } ∧
    IssuesPrimitive .wakeHi { inPhase 3#4 with lineFault := true, now := 40 } ∧
    IssuesPrimitive .bitHi { measuring with lineFault := true } :=
  ⟨⟨by decide, .inl ⟨0x01#8, by decide⟩⟩, ⟨by decide, .inr (.inl (by decide))⟩, .inr (.inr (.inl (by decide))),
    .inr (.inr (.inr (.inl (by decide)))), .inr (.inr (.inr (.inr ⟨8#4, true, by decide⟩)))⟩
theorem witness_LineFaultReplacesTheStep_else :
    ¬ IssuesPrimitive .stab { inPhase 1#4 with lineFault := true, now := 249999 } := by
  rintro (⟨op, h, _⟩ | ⟨_, h⟩ | ⟨h, _⟩ | ⟨h, _⟩ | ⟨p, l, h⟩)
  · simp [commandRows] at h
  · exact absurd h (by decide)
  · cases h
  · cases h
  · simp [timerRows] at h
theorem witness_HoldWaitsForItsDuration :
    ((Instr.stab, 250000) ∈ holdRows ∧ ({ base with now := 249999 } : State).now < base.tEnter + 250000) ∧
    ((Instr.wakeLo, 20000) ∈ holdRows ∧ ({ base with now := 19999 } : State).now < base.tEnter + 20000) ∧
    ((Instr.wakeHi, 40) ∈ holdRows ∧ ({ base with now := 39 } : State).now < base.tEnter + 40) ∧
    ((Instr.release, 10) ∈ holdRows ∧ ({ base with now := 9 } : State).now < base.tEnter + 10) := by decide
theorem witness_HoldPhasesWaitThenExit :
    LineOk (inPhase 1#4) ∧ LineOk (inPhase 2#4) ∧
      LineOk { inPhase 3#4 with lineFault := true, params := { (inPhase 3#4).params with ioFaultPossible := false } } := by
  decide
theorem witness_MatchingSampleCounts :
    (Instr.ackLo, 5#4, false) ∈ timerRows ∧ LineOk { inPhase 5#4 with ptCnt := 2#64, lineIn := false } ∧
      PollGoesOn false { inPhase 5#4 with ptCnt := 2#64, lineIn := false } := by
  unfold PollGoesOn
  decide
theorem witness_AcknowledgePhasesExit :
    (LineOk (inPhase 5#4) ∧ PollEnds false (inPhase 5#4) 0#64) ∧
    PollEnds false { inPhase 5#4 with ptCnt := 3#64 } 3#64 ∧
    PollEnds false { inPhase 5#4 with ptCnt := 3#64, lineIn := false } 0#64 ∧
    (LineOk { inPhase 6#4 with ptCnt := 3#64, lineIn := false } ∧
      PollEnds true { inPhase 6#4 with ptCnt := 3#64, lineIn := false } 3#64) ∧
    PollEnds true { inPhase 6#4 with ptCnt := 3#64 } 0#64 := by
  unfold PollEnds
  decide
theorem witness_BitLoExitStoresLowCount :
    (LineOk { inPhase 7#4 with idx := 39#6, ptCnt := 3#64 } ∧
      ({ inPhase 7#4 with idx := 39#6, ptCnt := 3#64 } : State).idx.toNat ≤ 39 ∧
      PollEnds false { inPhase 7#4 with idx := 39#6, ptCnt := 3#64 } 3#64) ∧
    PollEnds false { inPhase 7#4 with idx := 39#6 } 0#64 := by
  unfold PollEnds
  decide
theorem witness_BitHiExitStoresHighCount :
    (LineOk measuring ∧ measuring.idx.toNat ≤ 39 ∧ measuring.idx ≠ 39#6 ∧ PollEnds true measuring 3#64) ∧
    (({ measuring with idx := 39#6 } : State).idx = 39#6 ∧ PollEnds true { measuring with idx := 39#6 } 3#64) ∧
    PollEnds true { measuring with lineIn := true } 0#64 := by
  unfold PollEnds
  decide
theorem witness_TinyMaxCyclesAlwaysTimesOut :
    ((Instr.bitLo, 7#4, false) ∈ timerRows ∧ LineOk (machine 1 .type22) ∧
      (machine 1 .type22).params.maxCycles.toNat ≤ 1 ∧ (machine 1 .type22).ptCnt = 0#64) ∧
    (machine 0 .type22).params.maxCycles.toNat ≤ 1 := by decide
theorem witness_PollingCyclesAreTPollApart :
    (∃ t, (Instr.bitHi, 8#4, true) ∈ timerRows ∧ LineOk measuring ∧ exec .bitHi measuring = .next t) ∧
    ∃ t, polling (next (.tick 7) measuring) = true ∧ event (next (.tick 7) measuring) ≠ .engine ∧
      ¬ resets (next (.tick 7) measuring) ∧ step (next (.tick 7) measuring) = .next t :=
  ⟨⟨_, by decide, by decide, rfl⟩, _, by decide, by decide, fun ⟨_, h⟩ => (by cases h), rfl⟩
theorem witness_RespondDeliversTheOutcome : (cached 1000 true).cr.ok = true ∧ (cached 1000 false).cr.ok = false := by decide
theorem witness_CachedFailureIsReportedAgain :
    (Instr.rdb, 0x0C#8) ∈ commandRows ∧ (cached 2000999 false).phase = 0#4 ∧ (cached 2000999 false).closed = false ∧
      Hits 0x0C#8 (cached 2000999 false) ∧ (cached 2000999 false).cr.ok = false := by decide
theorem witness_ConversionPerVariant : SensorVariant.type22 = .type21 ∨ SensorVariant.type22 = .type22 := by decide
theorem witness_SignBitNegatesTheTemperature : SensorVariant.type21 = .type21 ∨ SensorVariant.type21 = .type22 := by decide
theorem witness_Binary32ViewIsNearestTenth : (1#16 : BitVec 16) ≠ 0#16 ∧ (65535#16 : BitVec 16) ≠ 0#16 := by decide
theorem witness_NegativeZeroKeepsItsSign : (SensorVariant.type21 = .type21 ∨ SensorVariant.type21 = .type22) ∧
    (frame 0 0 0x80 0 0x80).b2 = 0x80#8 ∧ (frame 0 0 0x80 0 0x80).b3 = 0x00#8 := by decide
theorem witness_NegativeZeroKeepsItsSign_only : tempX10 .type22 (frame 0 0 0x80 0 0x80) = tempX10 .type22 (frame 0 0 0 0 0) ∧
    tempNeg .type22 (frame 0 0 0x80 0 0x80) ≠ tempNeg .type22 (frame 0 0 0 0 0) := by decide
theorem witness_BufferWindowShowsEveryEntry : 0 < 80 ∧ 79 < 80 ∧
    event (write (BitVec.ofNat 12 (0x404 + 8 * 79)) 1#32 base)
      = .host (.write .word (BitVec.ofNat 12 (0x404 + 8 * 79)) 1#32) := ⟨by decide, by decide, rfl⟩

/-- The ends of each reserved range. -/
theorem witness_ReservedOffsetsReadZeroIgnoreWrites :
    (∀ addr ∈ [0x024#12, 0x038#12, 0x3FC#12, 0x680#12, 0xFFC#12], addr.toNat % 4 = 0 ∧
      (addr.toNat = 0x024 ∨ (0x038 ≤ addr.toNat ∧ addr.toNat ≤ 0x3FC) ∨ 0x680 ≤ addr.toNat)) ∧
    ∀ addr, event (write addr 1#32 base) = .host (.write .word addr 1#32) := ⟨by simp, fun _ => rfl⟩
theorem witness_ReadChangesNothing : (0x67C#12 : Offset).toNat % 4 = 0 ∧
    event (next (.host (.read .word 0x67C#12)) base) = .host (.read .word 0x67C#12) := by decide
theorem witness_WritesActOnlyOnCmdAndCtrl :
    ((write 0x000#12 0x104#32 base).rst = false ∧ (inPhase 11#4).rst = false ∧
      event (write 0x000#12 0x104#32 base) = .host (.write .word 0x000#12 0x104#32)) ∧
    ((inPhase 11#4).phase ≠ 0#4 ∧ base.phase = 0#4) ∧
    ((Instr.rdt, 0x04#8) ∈ commandRows ∧ (0x104#32).extractLsb' 0 8 = 0x04#8) ∧
    (∀ r ∈ commandRows, (0x102#32).extractLsb' 0 8 ≠ r.2) ∧ ((0x1#32).getLsbD 0 = true ∧ (0x2#32).getLsbD 0 = false) ∧
    ((0xFFC#12 : Offset) ≠ 0x000#12 ∧ (0xFFC#12 : Offset) ≠ 0x008#12 ∧ (0xFFC#12 : Offset).toNat % 4 = 0) := by decide
theorem witness_OtherAccessesAreRefused :
    (AccessSize.byte ≠ .word ∧
      event (next (.host (.write .byte 0x000#12 1#32)) base) = .host (.write .byte 0x000#12 1#32)) ∧
    ((0xFFF#12 : Offset).toNat % 4 ≠ 0 ∧
      event (next (.host (.read .word 0xFFF#12)) base) = .host (.read .word 0xFFF#12)) := by decide
theorem witness_ResetGivesEveryElementItsValue :
    (event (next (.reset 2#2) measuring) = .reset 2#2 ∧ variantCode .type22 = 2#2) ∧
    (event (next (.reset 0#2) measuring) = .reset 0#2 ∧ variantCode .type11 = 0#2) := by decide

/-- `rst` held while a command is written, time passes, and it is released. -/
theorem witness_ResetGivesEveryElementItsValue_held :
    ∀ e ∈ [Event.host (.write .word 0x000#12 0x01#32), .tick 7, .release], (next e held).rst = true ∧
      AtResetValues .type22 (next e held) ∧ ¬ resets (next e held) ∧ ∃ t, step (next e held) = .next t := by
  have values (e : Event) : AtResetValues .type22 (next e held) :=
    ⟨rfl, rfl, rfl, rfl, rfl, rfl, rfl, rfl, fun k _ => pmEntry_pmZero k, rfl, rfl, rfl, rfl, rfl, rfl, rfl, rfl, rfl, rfl,
      rfl⟩
  intro e h
  refine ⟨rfl, values e, ?_⟩
  simp only [List.mem_cons, List.not_mem_nil, or_false] at h
  rcases h with rfl | rfl | rfl <;> exact ⟨fun ⟨_, h⟩ => (by cases h), _, rfl⟩
theorem witness_ResetTouchesOnlyTheBlock :
    (∃ t, event (next (.reset 2#2) measuring) = .reset 2#2 ∧ step (next (.reset 2#2) measuring) = .next t) ∧
    event (next (.reset 3#2) measuring) = .reset 3#2 := ⟨⟨_, rfl, rfl⟩, rfl⟩

/-- A state in the middle of a transaction meets the invariant. -/
theorem measuring_runInv : RunInv measuring where
  phase_legal := by decide
  idx_le := by decide
  cmdl_legal := by decide
  enter_le := by decide
  stamp_le := by decide
  sub_lt := by decide
  count_rest := by decide
  count_lt := by decide
  pm_lt k _ := by
    show pmEntry (pmSet pmZero 0 2#64) k = 0#64 ∨ (pmEntry (pmSet pmZero 0 2#64) k).toNat < 4
    rw [pmEntry_pmSet]
    split <;> simp
  pm_filled _ k _ := by
    show pmEntry (pmSet pmZero 0 2#64) k ≠ 0#64 ↔ k < 1
    rw [pmEntry_pmSet]
    split <;> simp <;> omega
  rf_zero := fun _ => rfl
  txf_clear := fun _ => rfl
  commit_legal := fun h => absurd h (by decide)
  reading_legal := by
    unfold readingLegal
    rfl
  respond_tsv := by decide
  hit_tsv := by decide
  pad_legal := by
    unfold padLegal
    decide
  closed_idle := by decide
  index_legal := by decide
  results_legal := by
    unfold resultsLegal
    decide
  held_reset h := absurd h (by decide)

/-- COMMIT with a failure recorded meets the invariant. -/
theorem failing_runInv (kind : FailKind) (f : Frame) (h : attemptLegal kind 0#6 f) :
    RunInv { inPhase 10#4 with cmdl := 0x01#8, txf := { kind := kind, idx := 0#6 }, rf := f } where
  phase_legal := (by decide : (10#4).toNat < 12)
  idx_le := (by decide : (0#6).toNat ≤ 39)
  cmdl_legal _ := (by decide : Opcode.wf 0x01#8 = true)
  enter_le := (by decide : 0 ≤ 0)
  stamp_le := (by decide : 0 ≤ 0)
  sub_lt := (by decide : 0 < 1000)
  count_rest _ := rfl
  count_lt := .inl rfl
  pm_lt _ _ := .inl (pmEntry_pmZero _)
  pm_filled h := absurd h.2 (by decide : ¬ (10#4).toNat ≤ 9)
  rf_zero h := absurd h.2 (by decide : ¬ (10#4).toNat ≤ 9)
  txf_clear h := absurd h.2 (by decide : ¬ (10#4).toNat ≤ 9)
  commit_legal _ := h
  reading_legal := rfl
  respond_tsv h := absurd h (by decide : ¬ 10#4 = 11#4)
  hit_tsv h := absurd h (by decide : ¬ false = true)
  pad_legal := ⟨fun h => absurd h (by decide : ¬ 10#4 = 1#4), fun h => absurd h (by decide : ¬ 10#4 = 2#4),
    fun h => absurd h (by decide : ¬ 10#4 = 3#4), fun _ _ => ⟨rfl, rfl⟩⟩
  closed_idle h := absurd h (by decide : ¬ false = true)
  index_legal := ⟨(by decide : (0#6).toNat ≤ 39), fun _ => rfl⟩
  results_legal := ⟨fun _ => ⟨rfl, rfl⟩, fun _ => rfl, fun _ => rfl, fun _ => (by decide : (0#16).toNat < 0x8000),
    (by decide : (0#16) ≠ 0x8000#16)⟩
  held_reset h := absurd h (by decide : ¬ false = true)

/-- `rst` held meets the invariant. -/
theorem held_runInv : RunInv held where
  phase_legal := by decide
  idx_le := by decide
  cmdl_legal := by decide
  enter_le := by decide
  stamp_le := by decide
  sub_lt := by decide
  count_rest := by decide
  count_lt := by decide
  pm_lt k _ := .inl (pmEntry_pmZero k)
  pm_filled h := absurd h.1 (by decide)
  rf_zero := fun _ => rfl
  txf_clear := fun _ => rfl
  commit_legal := fun h => absurd h (by decide)
  reading_legal := by
    unfold readingLegal
    rfl
  respond_tsv := by decide
  hit_tsv := by decide
  pad_legal := by
    unfold padLegal
    decide
  closed_idle := by decide
  index_legal := by decide
  results_legal := by
    unfold resultsLegal
    decide
  held_reset _ := rfl
theorem witness_ResetGivesEveryElementItsValue_invariant : RunInv held ∧ held.rst = true := ⟨held_runInv, rfl⟩
theorem witness_CommitReplacesTheReading :
    RunInv { inPhase 10#4 with cmdl := 0x01#8, txf := { kind := .timeoutAck, idx := 0#6 }, rf := Frame.zero } ∧
    RunInv { inPhase 10#4 with cmdl := 0x01#8, txf := { kind := .timeoutBit, idx := 0#6 }, rf := Frame.zero } ∧
    RunInv { inPhase 10#4 with cmdl := 0x01#8, txf := { kind := .checksumMismatch, idx := 0#6 }, rf := frame 1 2 3 4 5 } ∧
    (inPhase 10#4).phase = 10#4 :=
  ⟨failing_runInv _ _ ⟨rfl, rfl⟩, failing_runInv _ _ ⟨by decide, rfl⟩, failing_runInv _ _ ⟨rfl, by decide⟩, rfl⟩
theorem witness_EveryStepKeepsInvariant :
    RunInv { measuring with inputs := [.engine] } ∧ ∃ t, step { measuring with inputs := [.engine] } = .next t ∧ t.phase = 7#4 :=
  ⟨{ measuring_runInv with held_reset := fun h => absurd h (by decide) }, _, rfl, by decide⟩
theorem witness_LegalEventsNeverStop :
    RunInv { measuring with inputs := [.reset 2#2] } ∧ nextEventLegal { measuring with inputs := [.reset 2#2] } = true :=
  ⟨{ measuring_runInv with held_reset := fun h => absurd h (by decide) }, by decide⟩
theorem witness_PhaseChangesFollowTheTable :
    (∃ t, step (next .engine measuring) = .next t ∧ t.phase ≠ (next .engine measuring).phase) ∧
    (∃ t, step (write 0x000#12 0x01#32 base) = .next t ∧ t.phase ≠ (write 0x000#12 0x01#32 base).phase) ∧
    ∃ t, step (next .engine { measuring with lineFault := true }) = .next t ∧ t.phase = 0#4 :=
  ⟨⟨_, rfl, by decide⟩, ⟨_, rfl, by decide⟩, _, rfl, by decide⟩
theorem witness_OnlyTheListedWriters :
    (∃ t, step (next .engine measuring) = .next t ∧ ¬ resets (next .engine measuring) ∧
      pmEntry t.pm 1 ≠ pmEntry (next .engine measuring).pm 1) ∧
    (∃ t, step (next .engine (inPhase 10#4)) = .next t ∧ t.cr ≠ (next .engine (inPhase 10#4)).cr) ∧
    (∃ t, step (write 0x008#12 1#32 base) = .next t ∧ t.closed ≠ (write 0x008#12 1#32 base).closed) ∧
    (∃ t, step (write 0x008#12 1#32 measuring) = .next t ∧ t.ovr ≠ (write 0x008#12 1#32 measuring).ovr) ∧
    (∃ t, step (write 0x000#12 1#32 (cached 1000 true)) = .next t ∧ t.hit ≠ (cached 1000 true).hit) ∧
    ∃ t, step (next .engine { measuring with hit := true, lineFault := true }) = .next t ∧ t.hit = false :=
  ⟨⟨_, rfl, fun ⟨_, h⟩ => (by cases h), by decide⟩, ⟨_, rfl, by decide⟩, ⟨_, rfl, by decide⟩, ⟨_, rfl, by decide⟩,
    ⟨_, rfl, by decide⟩, _, rfl, by decide⟩

/-- A step that writes each element: IDX, PT_CNT and TXF by the engine, CMDL and T_ENTER at a start, the outcome at an
immediate completion and in RESPOND. -/
theorem witness_SequencerAndOutcomeWriters :
    (∃ t, step (next .engine measuring) = .next t ∧ ¬ resets (next .engine measuring) ∧ t.idx ≠ measuring.idx ∧
      t.ptCnt ≠ measuring.ptCnt) ∧
    (∃ t, step (next .engine { measuring with lineIn := true }) = .next t ∧ t.txf ≠ measuring.txf) ∧
    (∃ t, step (write 0x000#12 0x0C#32 { base with now := 5 }) = .next t ∧ t.cmdl ≠ base.cmdl ∧ t.tEnter ≠ base.tEnter) ∧
    (∃ t, step (write 0x000#12 0x02#32 base) = .next t ∧ t.result ≠ base.result) ∧
    ∃ t, step (next .engine (responding 0x0C#8 .type22 (frame 0x02 0x8C 0x01 0x5D 0xEC))) = .next t ∧
      t.resHum ≠ base.resHum ∧ t.resTemp ≠ base.resTemp :=
  ⟨⟨_, rfl, fun ⟨_, h⟩ => (by cases h), by decide, by decide⟩, ⟨_, rfl, by decide⟩, ⟨_, rfl, by decide, by decide⟩,
    ⟨_, rfl, by decide⟩, _, rfl, by decide, by decide⟩
theorem witness_EachPortHasItsOwnEvent :
    (event (next (.line false) measuring) = .line false ∧ event (next (.fault true) held) = .fault true ∧
      event (next .release held) = .release) ∧
    (∃ t, step (next (.line true) measuring) = .next t ∧ t.lineIn ≠ measuring.lineIn) ∧
    (∃ t, step (next (.fault true) held) = .next t ∧ t.lineFault ≠ held.lineFault) ∧
    (∃ t, step (next .release held) = .next t ∧ t.rst ≠ held.rst) ∧
    (∃ t, step (next (.reset 2#2) base) = .next t ∧ t.rst ≠ base.rst) ∧
    ∃ t, step (next (.host (.read .word 0x00C#12)) base) = .next t ∧ t.hostData ≠ base.hostData :=
  ⟨by decide, ⟨_, rfl, by decide⟩, ⟨_, rfl, by decide⟩, ⟨_, rfl, by decide⟩, ⟨_, rfl, by decide⟩, _, rfl, by decide⟩
theorem witness_IdleResultsAreStable :
    ∃ t, step (next (.tick 5) base) = .next t ∧ (next (.tick 5) base).phase = 0#4 ∧ ¬ resets (next (.tick 5) base) ∧
      ∀ v, event (next (.tick 5) base) ≠ .host (.write .word 0x000#12 v) ∧
        event (next (.tick 5) base) ≠ .host (.write .word 0x008#12 v) :=
  ⟨_, rfl, rfl, fun ⟨_, h⟩ => (by cases h), fun _ => ⟨fun h => (by cases h), fun h => (by cases h)⟩⟩
theorem witness_CriticalSectionIgnoresTheHost :
    (∃ t, event (next (.host (.read .word 0x404#12)) measuring) = .host (.read .word 0x404#12) ∧
      (next (.host (.read .word 0x404#12)) measuring).phase ≠ 0#4 ∧
      step (next (.host (.read .word 0x404#12)) measuring) = .next t) ∧
    (Instr.bitHi, 8#4) ∈ phaseRows := ⟨⟨_, by decide, by decide, rfl⟩, by decide⟩
theorem witness_TimeOnlyMovesForward :
    (∃ t, step (next .engine measuring) = .next t ∧ ¬ resets (next .engine measuring)) ∧
    ((next (.tick 5) base).rst = false ∧ event (next (.tick 5) base) = .tick 5 ∧ polling (next (.tick 5) base) = false) :=
  ⟨⟨_, rfl, fun ⟨_, h⟩ => by cases h⟩, by decide⟩
theorem witness_ExpectPulseCountsTheRun : (0 = 0 ∨ 0 < 0) ∧ (3 = 0 ∨ 3 < 4) ∧ 1 ≤ 4 := by decide

/-- V10 for the small steps. -/
theorem witness_PollingComputesExpectPulse :
    (Instr.ackLo, 5#4, false) ∈ timerRows ∧ (inPhase 5#4).rst = false ∧ (inPhase 5#4).phase = 5#4 ∧ LineOk (inPhase 5#4) ∧ (inPhase 5#4).ptCnt = 0#64 ∧
      expectPulse false (inPhase 5#4).params.maxCycles.toNat 0 [false, false, true, true] = some (2, [true]) := by decide

/-- The shortest frame of forty 1 bits: a run of one sample for the first call, then runs of two, and of three for the
high pulses of the bits, and the sample that ends the last one. -/
def shortestFrame : List Bool :=
  [false, true, true] ++ (List.replicate 40 [false, false, true, true, true]).flatten ++ [false]

/-- A capture that measures all forty pairs, and one that ends at the first sample. -/
theorem witness_AcquisitionMeetsContract :
    (∃ a, acquire (inPhase 5#4).params.maxCycles.toNat shortestFrame = some a ∧ a.txf.kind = .none) ∧
    (∃ a, acquire (inPhase 5#4).params.maxCycles.toNat [true] = some a ∧ a.txf.kind = .timeoutAck) ∧
    ((inPhase 5#4).rst = false ∧ (inPhase 5#4).phase = 5#4 ∧ LineOk (inPhase 5#4) ∧ (inPhase 5#4).ptCnt = 0#64 ∧ (inPhase 5#4).txf = Txf.clear) ∧
    (inPhase 5#4).pm = pmZero :=
  ⟨⟨_, rfl, by decide⟩, ⟨_, rfl, by decide⟩, by decide, rfl⟩
theorem witness_CaptureCommitsTheContractsReading :
    (∃ a, acquire (inPhase 5#4).params.maxCycles.toNat shortestFrame = some a) ∧ (inPhase 5#4).rst = false ∧
      (inPhase 5#4).phase = 5#4 ∧
      LineOk (inPhase 5#4) ∧ (inPhase 5#4).ptCnt = 0#64 ∧ (inPhase 5#4).pm = pmZero ∧ (inPhase 5#4).txf = Txf.clear ∧
      (inPhase 5#4).rf = Frame.zero :=
  ⟨⟨_, rfl⟩, rfl, rfl, by decide, rfl, rfl, rfl, rfl⟩
theorem witness_SamplingEndsWithinBound :
    RunInv measuring ∧ LineOk measuring ∧ 1 ≤ (List.replicate 328 true).length ∧
      82 * measuring.params.maxCycles.toNat ≤ (List.replicate 328 true).length :=
  ⟨measuring_runInv, by decide, by rw [List.length_replicate]; decide, by rw [List.length_replicate]; decide⟩

end Sys2Proof.Tests
end

/-! SUPPORT. What taking an event, a port event and a time event leave alone, and the inversion of one step that the
whole-machine statements are case analyses of. -/

namespace Sys2Proof.Machine

open Sys2Proof.Stated

variable {e : Event} {s t : State}

theorem busy_eq_false_iff : busy s = false ↔ s.phase = phIdle := by simp [busy]

theorem busy_eq_true_iff : busy s = true ↔ s.phase ≠ phIdle := by simp [busy]

theorem lineBad_of_lineFails (h : lineFails s = true) : LineBad s := by simpa [lineFails] using h

/-- The four pulse-timer phases lie together in the code (R65, R87). -/
theorem polling_iff : polling s = true ↔ 5 ≤ s.phase.toNat ∧ s.phase.toNat ≤ 8 := by
  have codes : ∀ c : BitVec 4,
      (c == phAckLo || c == phAckHi || c == phBitLo || c == phBitHi) = true ↔ 5 ≤ c.toNat ∧ c.toNat ≤ 8 := by
    decide
  exact codes s.phase

theorem polling_eq_false_iff : polling s = false ↔ s.phase.toNat < 5 ∨ 8 < s.phase.toNat := by
  rw [← Bool.not_eq_true, polling_iff]
  omega

/-- A time event moves `now` and nothing else. -/
theorem passTime_frame (us : Nat) (s : State) : ∃ n, s.now ≤ n ∧ passTime us s = { s with now := n } := by
  rcases passTime_cases us s with ⟨_, h⟩ | ⟨_, _, h⟩
  · exact ⟨s.now, Nat.le_refl _, h⟩
  · exact ⟨s.now + us, Nat.le_add_right _ _, h⟩

/-- Whatever does not look at `now` is the same after a time event. -/
theorem passTime_keeps {α : Type} (f : State → α) (hf : ∀ n, f { s with now := n } = f s) (us : Nat) :
    f (passTime us s) = f s := by
  obtain ⟨n, -, h⟩ := passTime_frame us s
  rw [h, hf]

/-- `t` is `s` but for the ports and the model's own account of what the agents do next. -/
def SameBlock (s t : State) : Prop :=
  ∃ l f r d es n, t = { s with lineIn := l, lineFault := f, rst := r, hostData := d, inputs := es, freeIdx := n }

/-- The step takes the event that `event` names, at the state `after` names. -/
theorem step_eq_runEvent (s : State) : step s = runEvent (event s) (after s) := rfl

theorem after_frame (s : State) : ∃ es n, after s = { s with inputs := es, freeIdx := n } := takeEvent_snd s

/-- Whatever does not look at what the agents do next is the same once the event is taken. -/
theorem after_keeps {α : Type} (f : State → α) (hf : ∀ es n, f { s with inputs := es, freeIdx := n } = f s) :
    f (after s) = f s := by
  obtain ⟨es, n, h⟩ := after_frame s
  rw [h, hf]

@[simp] theorem after_phase (s : State) : (after s).phase = s.phase := after_keeps _ fun _ _ => rfl
@[simp] theorem after_now (s : State) : (after s).now = s.now := after_keeps _ fun _ _ => rfl
@[simp] theorem after_rst (s : State) : (after s).rst = s.rst := after_keeps _ fun _ _ => rfl
@[simp] theorem after_lineIn (s : State) : (after s).lineIn = s.lineIn := after_keeps _ fun _ _ => rfl
@[simp] theorem after_lineFault (s : State) : (after s).lineFault = s.lineFault := after_keeps _ fun _ _ => rfl
@[simp] theorem after_hostData (s : State) : (after s).hostData = s.hostData := after_keeps _ fun _ _ => rfl
@[simp] theorem after_params (s : State) : (after s).params = s.params := after_keeps _ fun _ _ => rfl
@[simp] theorem polling_after (s : State) : polling (after s) = polling s := after_keeps _ fun _ _ => rfl

/-- A port event that is no reset leaves the block alone. -/
theorem sameBlock_of_portCase (h : PortCase e s t) (hr : ∀ strap, e ≠ .reset strap) : SameBlock s t := by
  cases h with
  | read => exact ⟨_, _, _, _, _, _, rfl⟩
  | line => exact ⟨_, _, _, _, _, _, rfl⟩
  | fault => exact ⟨_, _, _, _, _, _, rfl⟩
  | reset strap v he => exact absurd he (hr strap)
  | release => exact ⟨_, _, _, _, _, _, rfl⟩

/-- A step that is no reset leaves the block alone, or is one of the step cases at the state with the event taken. -/
theorem step_sameBlock_or_stepCase (h : step s = .next t) (hr : ¬ resets s) :
    SameBlock s t ∨ (s.rst = false ∧ ∃ es n, StepCase (event s) { s with inputs := es, freeIdx := n } t) := by
  obtain ⟨es, n, hs⟩ := after_frame s
  have hc : PortCase (event s) (after s) t ∨ ((after s).rst = true ∧ t = after s) ∨
      ((after s).rst = false ∧ StepCase (event s) (after s) t) := step_stepCase h
  rw [hs] at hc
  rcases hc with hp | ⟨_, rfl⟩ | ⟨hrun, hc⟩
  · obtain ⟨_, _, _, _, _, _, rfl⟩ := sameBlock_of_portCase hp fun strap he => hr ⟨strap, he⟩
    exact .inl ⟨_, _, _, _, _, _, rfl⟩
  · exact .inl ⟨_, _, _, _, _, _, rfl⟩
  · exact .inr ⟨hrun, es, n, hc⟩

/-- A reset event is what `resetEvent` says, whatever else holds (R210). -/
theorem step_reset {strap : BitVec 2} (h : event s = .reset strap) : step s = resetEvent strap (after s) := by
  rw [step_eq_runEvent, h]
  simp [runEvent, fetch, issuedWord, applyEvent]

end Sys2Proof.Machine

/-! SUPPORT. The invariant of every run, one lemma per kind of step. Each names only the clauses that speak of what the
step writes; the others are those of the state before. -/

namespace Sys2Proof.Machine

variable {e : Event} {s t : State}

/-! ## The clauses of the invariant by themselves -/

theorem not_acquiring (hp : s.phase.toNat < 1 ∨ 9 < s.phase.toNat) : ¬ acquiring s := by
  unfold acquiring
  omega

/-- Before BIT_LO nothing is measured (R18). -/
theorem filled_eq_zero (hp : s.phase.toNat < 7) : filled s = 0 := by
  unfold filled
  split_ifs with hlo hhi hasm
  · exact absurd hp (by rw [hlo]; decide)
  · exact absurd hp (by rw [hhi]; decide)
  · exact absurd hp (by rw [hasm]; decide)
  · rfl

theorem padLegal_idle (hp : s.phase = phIdle) : padLegal s := by simp [padLegal, hp]

theorem padLegal_respond (hp : s.phase = phRespond) : padLegal s := by simp [padLegal, hp]

/-- From the release to COMMIT the pad is released, and so it stays on the way (R117, R122). -/
theorem padLegal_released (hp : 4 ≤ s.phase.toNat) (hd : s.lineDir = .input) (hl : s.lineLvl = true) : padLegal s :=
  ⟨fun he => absurd hp (by rw [he]; decide), fun he => absurd hp (by rw [he]; decide),
    fun he => absurd hp (by rw [he]; decide), fun _ _ => ⟨hd, hl⟩⟩

theorem heldReset_of_running (hr : s.rst = false) : s.rst = true → s = resetBlock s.variant s :=
  fun hh => absurd (hr.symm.trans hh) (by decide)

/-- Cleared results are consistent with every outcome (R24). -/
theorem resultsLegal_clear (hh : s.resHum = ResHum.clear) (ht : s.resTemp = ResTemp.clear) : resultsLegal s := by
  unfold resultsLegal
  rw [hh, ht]
  exact ⟨fun _ => ⟨rfl, rfl⟩, fun _ => rfl, fun _ => rfl, fun _ => by decide, by decide⟩

/-- A temperature's magnitude is below 0x8000 in every variant (R142, R144, R145). -/
theorem tempMag_lt (v : SensorVariant) (f : Frame) : (tempMag v f).toNat < 0x8000 := by
  have h2 := f.b2.isLt
  have h3 := f.b3.isLt
  cases v with
  | type11 =>
    show (BitVec.ofNat 16 (f.b2.toNat * 10)).toNat < 0x8000
    rw [BitVec.toNat_ofNat]
    exact lt_of_le_of_lt (Nat.mod_le _ _) (by omega)
  | type21 | type22 =>
    show ((f.b2 &&& 0x7F#8) ++ f.b3).toNat < 0x8000
    rw [toNat_append_bytes, toNat_and_7F]
    omega

theorem tempX10_lt_of_not_tempNeg {v : SensorVariant} {f : Frame} (h : tempNeg v f = false) :
    (tempX10 v f).toNat < 0x8000 := by
  simpa [tempX10, h] using tempMag_lt v f

/-- No frame converts to 0x8000 (R145). -/
theorem tempX10_ne_min (v : SensorVariant) (f : Frame) : tempX10 v f ≠ 0x8000#16 := by
  intro h
  have hm := tempMag_lt v f
  have hn := congrArg BitVec.toNat h
  unfold tempX10 neg16 at hn
  split at hn
  · rw [BitVec.toNat_ofNat, BitVec.toNat_ofNat] at hn
    omega
  · rw [hn] at hm
    exact absurd hm (by decide)

/-- What a successful RESPOND writes is consistent (R24, R145, R160). -/
theorem resultsLegal_respond (hr : t.result = .ok) (hh : t.resHum = respondHum s) (ht : t.resTemp = respondTemp s) :
    resultsLegal t := by
  unfold resultsLegal
  rw [hr, hh, ht]
  refine ⟨fun h => absurd rfl h, ?_, ?_⟩
  · unfold respondHum
    split <;> simp
  · unfold respondTemp
    split
    · exact ⟨fun h => absurd h (by decide : ¬ true = false), tempX10_lt_of_not_tempNeg, tempX10_ne_min _ _⟩
    · exact ⟨fun _ => rfl, fun _ => by decide, by decide⟩

/-- The index an attempt leaves is one that `INDEX` may hold beside the attempt's outcome (R23, R74). -/
theorem attemptLegal_index {k : FailKind} {i : BitVec 6} {f : Frame} (h : attemptLegal k i f) :
    i.toNat ≤ 39 ∧ (resultOfFail k ≠ .timeoutBit → i = 0#6) := by
  cases k with
  | timeoutBit => exact ⟨h.1, fun hn => absurd rfl hn⟩
  | none | timeoutAck | checksumMismatch =>
    obtain ⟨rfl, -⟩ := h
    exact ⟨by decide, fun _ => rfl⟩

/-- What ASSEMBLE records suits the frame it writes (R133). -/
theorem attemptLegal_checksum {f : Frame} {x : Txf}
    (hx : x = if checksumValid f then Txf.clear else { kind := .checksumMismatch, idx := 0#6 }) :
    attemptLegal x.kind x.idx f := by
  subst hx
  cases hv : checksumValid f with
  | true => exact ⟨rfl, hv⟩
  | false => exact ⟨rfl, hv⟩

/-- A write of a count below a bound keeps every entry 0 or below it. -/
theorem pmEntry_pmSet_lt {pm : Vector Count 80} {j : Nat} {c : Count} {M : Nat}
    (h : ∀ k < 80, pmEntry pm k = 0#64 ∨ (pmEntry pm k).toNat < M) (hc : c.toNat < M) :
    ∀ k < 80, pmEntry (pmSet pm j c) k = 0#64 ∨ (pmEntry (pmSet pm j c) k).toNat < M := by
  intro k hk
  rw [pmEntry_pmSet]
  split
  · exact .inr hc
  · exact h k hk

/-- Writing a count that is not 0 to the first free entry fills one entry more. -/
theorem pmEntry_pmSet_filled {pm : Vector Count 80} {j : Nat} {c : Count}
    (h : ∀ k < 80, (pmEntry pm k ≠ 0#64 ↔ k < j)) (hc : c ≠ 0#64) :
    ∀ k < 80, (pmEntry (pmSet pm j c) k ≠ 0#64 ↔ k < j + 1) := by
  intro k hk
  rw [pmEntry_pmSet]
  split
  · rename_i hj
    exact ⟨fun _ => by omega, fun _ => hc⟩
  · rw [h k hk]
    omega

/-- The block at its reset values meets the invariant, `rst` held or not, whatever the ports and the agents hold. -/
theorem runInv_reset (p : Params) (v : SensorVariant) (l f r : Bool) (d : Word) (es : List Event) (n : Nat) :
    RunInv { State.afterReset p v with
      rst := r, lineIn := l, lineFault := f, hostData := d, inputs := es, freeIdx := n } where
  phase_legal := (by decide : (0#4).toNat < 12)
  idx_le := (by decide : (0#6).toNat ≤ 39)
  cmdl_legal hb := absurd hb (by decide : ¬ (phIdle != phIdle) = true)
  enter_le := Nat.le_refl 0
  stamp_le := Nat.le_refl 0
  sub_lt := (by decide : 0 < 1000)
  count_rest _ := rfl
  count_lt := .inl rfl
  pm_lt k _ := .inl (pmEntry_pmZero k)
  pm_filled ha := absurd ha (not_acquiring (.inl (by decide : (0#4).toNat < 1)))
  rf_zero _ := rfl
  txf_clear _ := rfl
  commit_legal hp := absurd hp (by decide : ¬ 0#4 = 10#4)
  reading_legal := rfl
  respond_tsv hp := absurd hp (by decide : ¬ 0#4 = 11#4)
  hit_tsv hh := absurd hh (by decide : ¬ false = true)
  pad_legal := padLegal_idle rfl
  closed_idle hc := absurd hc (by decide : ¬ false = true)
  index_legal := ⟨(by decide : (0#6).toNat ≤ 39), fun _ => rfl⟩
  results_legal := resultsLegal_clear rfl rfl
  held_reset hr := by
    have hr : r = true := hr
    subst hr
    rfl

namespace RunInv

/-! ## What the invariant says of a state in a given phase -/

theorem closed_eq_false (h : RunInv s) (hp : 1 ≤ s.phase.toNat) : s.closed = false :=
  Bool.eq_false_iff.mpr fun hc => absurd hp (by rw [(h.closed_idle hc).1]; decide)

theorem ptCnt_eq_zero (h : RunInv s) (hp : s.phase.toNat < 5 ∨ 8 < s.phase.toNat) : s.ptCnt = 0#64 :=
  h.count_rest (polling_eq_false_iff.mpr hp)

theorem opcode_legal (h : RunInv s) (hp : 1 ≤ s.phase.toNat) : Opcode.wf s.cmdl = true :=
  h.cmdl_legal (busy_eq_true_iff.mpr fun hi => absurd hp (by rw [hi]; decide))

theorem pad_released (h : RunInv s) (hp : 4 ≤ s.phase.toNat) (hp' : s.phase.toNat ≤ 10) :
    s.lineDir = .input ∧ s.lineLvl = true := by
  obtain ⟨-, -, -, hpad⟩ := h.pad_legal
  exact hpad hp hp'

/-- A result of the pulse timer that is no timeout is below `MAX_CYCLES` (R90). -/
theorem pollResult_lt (h : RunInv s) {level : Bool} {c : Count} (hr : PollResult level s c) (hc : c ≠ 0#64) :
    c.toNat < s.params.maxCycles.toNat := by
  obtain ⟨-, rfl⟩ := hr.eq_of_ne_zero hc
  exact h.count_lt.resolve_left hc

/-! ## Taking an event, port events, time -/

theorem taken (h : RunInv s) (es : List Event) (n : Nat) : RunInv { s with inputs := es, freeIdx := n } :=
  { h with
    held_reset := fun hr => congrArg (fun u : State => { u with inputs := es, freeIdx := n }) (h.held_reset hr) }

theorem portCase (h : RunInv s) (hc : PortCase e s t) : RunInv t := by
  cases hc with
  | read addr =>
    exact { h with
      held_reset := fun hr => congrArg (fun u : State => { u with hostData := regRead s addr }) (h.held_reset hr) }
  | line l =>
    exact { h with held_reset := fun hr => congrArg (fun u : State => { u with lineIn := l }) (h.held_reset hr) }
  | fault f =>
    exact { h with held_reset := fun hr => congrArg (fun u : State => { u with lineFault := f }) (h.held_reset hr) }
  | reset strap v => exact runInv_reset s.params v s.lineIn s.lineFault true s.hostData s.inputs s.freeIdx
  | release => exact { h with held_reset := heldReset_of_running rfl }

section Running

variable (h : RunInv s) (hr : s.rst = false)

include h hr

theorem later {n m : Nat} (hn : s.now ≤ n) (hm : m < 1000) : RunInv { s with now := n, nowSub := m } :=
  { h with
    enter_le := h.enter_le.trans hn
    stamp_le := h.stamp_le.trans hn
    sub_lt := hm
    held_reset := heldReset_of_running hr }

theorem passTime (us : Nat) : RunInv (Machine.passTime us s) := by
  obtain ⟨n, hn, he⟩ := passTime_frame us s
  rw [he]
  exact h.later hr hn h.sub_lt

theorem passPoll : RunInv (Machine.passPoll s) :=
  h.later hr (Nat.le_add_right _ _) (Nat.mod_lt _ (by decide))

/-! ## Writes that no clause about the phase speaks of -/

theorem overrun : RunInv (Machine.overrun s) := { h with held_reset := heldReset_of_running hr }

theorem clearHit : RunInv { s with hit := false } :=
  { h with
    hit_tsv := fun hh => absurd hh (by decide : ¬ false = true)
    held_reset := heldReset_of_running hr }

theorem clearCount : RunInv { s with ptCnt := 0#64 } :=
  { h with
    count_rest := fun _ => rfl
    count_lt := .inl rfl
    held_reset := heldReset_of_running hr }

theorem outcome (r : Result) (i : BitVec 6) (hum : ResHum) (temp : ResTemp)
    (hi : i.toNat ≤ 39 ∧ (r ≠ .timeoutBit → i = 0#6))
    (hres : resultsLegal { s with result := r, index := i, resHum := hum, resTemp := temp }) :
    RunInv { s with result := r, index := i, resHum := hum, resTemp := temp } :=
  { h with
    index_legal := hi
    results_legal := hres
    held_reset := heldReset_of_running hr }

/-! ## Ends of a command -/

theorem toIdle (hc : s.ptCnt = 0#64) : RunInv { s with phase := phIdle } :=
  { h with
    phase_legal := (by decide : (0#4).toNat < 12)
    cmdl_legal := fun hb => absurd hb (by decide : ¬ (phIdle != phIdle) = true)
    count_rest := fun _ => hc
    pm_filled := fun ha => absurd ha (not_acquiring (.inl (by decide : (0#4).toNat < 1)))
    rf_zero := fun ha => absurd ha (not_acquiring (.inl (by decide : (0#4).toNat < 1)))
    txf_clear := fun ha => absurd ha (not_acquiring (.inl (by decide : (0#4).toNat < 1)))
    commit_legal := fun hp => absurd hp (by decide : ¬ 0#4 = 10#4)
    respond_tsv := fun hp => absurd hp (by decide : ¬ 0#4 = 11#4)
    pad_legal := padLegal_idle rfl
    closed_idle := fun hc => ⟨rfl, (h.closed_idle hc).2⟩
    held_reset := heldReset_of_running hr }

/-- An outcome with cleared results and no hit, before the block goes to IDLE (R187, R188, R189). -/
theorem clearedOutcome (r : Result) :
    RunInv { s with result := r, index := 0#6, hit := false, resHum := ResHum.clear, resTemp := ResTemp.clear } :=
  (h.outcome hr r 0#6 ResHum.clear ResTemp.clear ⟨by decide, fun _ => rfl⟩ (resultsLegal_clear rfl rfl)).clearHit hr

theorem endCommand (r : Result) (hp : s.phase = phIdle) : RunInv (Machine.endCommand r s) :=
  (h.clearedOutcome hr r).toIdle hr (h.ptCnt_eq_zero (.inl (by rw [hp]; decide)))

theorem ioError : RunInv (Machine.ioError s) := ((h.clearedOutcome hr .ioError).clearCount hr).toIdle hr rfl

theorem respondOk (hp : s.phase = phRespond) :
    RunInv { s with
      result := .ok, index := 0#6, resHum := respondHum s, resTemp := respondTemp s, phase := phIdle } :=
  (h.outcome hr .ok 0#6 _ _ ⟨by decide, fun _ => rfl⟩ (resultsLegal_respond rfl rfl rfl)).toIdle hr
    (h.ptCnt_eq_zero (.inr (by rw [hp]; decide)))

theorem respondFail (hp : s.phase = phRespond) :
    RunInv { s with
      result := resultOfFail s.cr.fkind, index := s.cr.fidx, resHum := ResHum.clear, resTemp := ResTemp.clear
      phase := phIdle } := by
  have hread := h.reading_legal
  rw [readingLegal, if_pos (h.respond_tsv hp)] at hread
  exact (h.outcome hr _ _ ResHum.clear ResTemp.clear (attemptLegal_index hread.2) (resultsLegal_clear rfl rfl)).toIdle
    hr (h.ptCnt_eq_zero (.inr (by rw [hp]; decide)))

/-! ## Acceptance and CLOSE -/

theorem close (hp : s.phase = phIdle) : RunInv (setDirection .input { s with closed := true }) :=
  { h with
    pad_legal := padLegal_idle hp
    closed_idle := fun _ => ⟨hp, rfl⟩
    held_reset := heldReset_of_running hr }

/-- What a hit and a COMMIT share: RESPOND with an attempt to report. -/
theorem toRespond {op : Byte} (hw : Opcode.wf op = true) (hc : s.ptCnt = 0#64) (ht : s.cr.tsv = true)
    (ho : s.closed = false) (b : Bool) : RunInv { s with cmdl := op, hit := b, phase := phRespond } :=
  { h with
    phase_legal := (by decide : (11#4).toNat < 12)
    cmdl_legal := fun _ => hw
    count_rest := fun _ => hc
    pm_filled := fun ha => absurd ha (not_acquiring (.inr (by decide : 9 < (11#4).toNat)))
    rf_zero := fun ha => absurd ha (not_acquiring (.inr (by decide : 9 < (11#4).toNat)))
    txf_clear := fun ha => absurd ha (not_acquiring (.inr (by decide : 9 < (11#4).toNat)))
    commit_legal := fun hp => absurd hp (by decide : ¬ 11#4 = 10#4)
    respond_tsv := fun _ => ht
    hit_tsv := fun _ => ht
    pad_legal := padLegal_respond rfl
    closed_idle := fun hcl => absurd (ho.symm.trans hcl) (by decide)
    held_reset := heldReset_of_running hr }

theorem hit {op : Byte} (hp : s.phase = phIdle) (hw : Opcode.wf op = true) (ho : s.closed = false)
    (hh : cacheHit op s = true) : RunInv { s with cmdl := op, hit := true, phase := phRespond } := by
  have ht : s.cr.tsv = true := by
    simp only [cacheHit, Bool.and_eq_true] at hh
    obtain ⟨⟨-, htsv⟩, -⟩ := hh
    exact htsv
  exact h.toRespond hr hw (h.ptCnt_eq_zero (.inl (by rw [hp]; decide))) ht ho true

theorem start {op : Byte} (hp : s.phase = phIdle) (hw : Opcode.wf op = true) (ho : s.closed = false) :
    RunInv (startTransaction { s with cmdl := op, hit := false }) :=
  { h with
    phase_legal := (by decide : (1#4).toNat < 12)
    cmdl_legal := fun _ => hw
    enter_le := Nat.le_refl s.now
    count_rest := fun _ => h.ptCnt_eq_zero (.inl (by rw [hp]; decide))
    pm_lt := fun k _ => .inl (pmEntry_pmZero k)
    pm_filled := fun _ k _ => ⟨fun hn => absurd (pmEntry_pmZero k) hn, fun hk => absurd hk (Nat.not_lt_zero k)⟩
    rf_zero := fun _ => rfl
    txf_clear := fun _ => rfl
    commit_legal := fun hp => absurd hp (by decide : ¬ 1#4 = 10#4)
    respond_tsv := fun hp => absurd hp (by decide : ¬ 1#4 = 11#4)
    hit_tsv := fun hh => absurd hh (by decide : ¬ false = true)
    pad_legal := ⟨fun _ => ⟨rfl, rfl⟩, fun hp => absurd hp (by decide : ¬ 1#4 = 2#4),
      fun hp => absurd hp (by decide : ¬ 1#4 = 3#4), fun hp _ => absurd hp (by decide : ¬ 4 ≤ (1#4).toNat)⟩
    closed_idle := fun hcl => absurd (ho.symm.trans hcl) (by decide)
    held_reset := heldReset_of_running hr }

/-! ## The transaction: hold phases -/

/-- From one hold phase of a transaction to the next: only the pad is to be shown. -/
theorem enterHold (ha : acquiring s) (hs : s.phase.toNat ≤ 3) {ph : BitVec 4} (h4 : ph.toNat ≤ 4)
    {d : Dir} {l : Bool} (hpad : padLegal { s with lineDir := d, lineLvl := l, phase := ph }) :
    RunInv (Machine.enterHold ph { s with lineDir := d, lineLvl := l }) :=
  { h with
    phase_legal := lt_of_le_of_lt h4 (by decide)
    cmdl_legal := fun _ => h.opcode_legal ha.1
    enter_le := Nat.le_refl s.now
    count_rest := fun _ => h.ptCnt_eq_zero (.inl (by omega))
    pm_filled := by
      intro _
      have hpm := h.pm_filled ha
      rw [filled_eq_zero (by omega)] at hpm
      rw [filled_eq_zero (lt_of_le_of_lt h4 (by decide))]
      exact hpm
    rf_zero := fun _ => h.rf_zero ha
    txf_clear := fun _ => h.txf_clear ha
    commit_legal := fun (he : ph = phCommit) => absurd h4 (by rw [he]; decide)
    respond_tsv := fun (he : ph = phRespond) => absurd h4 (by rw [he]; decide)
    pad_legal := hpad
    closed_idle := fun hcl => absurd ((h.closed_eq_false ha.1).symm.trans hcl) (by decide)
    held_reset := heldReset_of_running hr }

theorem stab (hp : s.phase = phStab) : RunInv (Machine.enterHold phWakeLo (setLevel false s)) := by
  obtain ⟨hpad, -, -, -⟩ := h.pad_legal
  obtain ⟨hd, -⟩ := hpad hp
  refine h.enterHold hr (d := s.lineDir) (l := false) (by simp [acquiring, hp]) (by rw [hp]; decide) (by decide) ?_
  simp [padLegal, hd]

theorem wakeLo (hp : s.phase = phWakeLo) : RunInv (Machine.enterHold phWakeHi (setLevel true s)) := by
  obtain ⟨-, hpad, -, -⟩ := h.pad_legal
  obtain ⟨hd, -⟩ := hpad hp
  refine h.enterHold hr (d := s.lineDir) (l := true) (by simp [acquiring, hp]) (by rw [hp]; decide) (by decide) ?_
  simp [padLegal, hd]

theorem wakeHi (hp : s.phase = phWakeHi) : RunInv (Machine.enterHold phRelease (setDirection .input s)) := by
  obtain ⟨-, -, hpad, -⟩ := h.pad_legal
  obtain ⟨-, hl⟩ := hpad hp
  refine h.enterHold hr (d := .input) (l := s.lineLvl) (by simp [acquiring, hp]) (by rw [hp]; decide) (by decide) ?_
  simp [padLegal, hl]

/-! ## The transaction: pulse-timer phases -/

/-- One more matching sample below the bound (R87). -/
theorem count (hp : polling s = true) (hm : s.ptCnt.toNat + 1 < s.params.maxCycles.toNat) :
    RunInv { Machine.passPoll s with ptCnt := s.ptCnt + 1#64 } := by
  have hlt : (s.ptCnt + 1#64).toNat < s.params.maxCycles.toNat := by
    rw [BitVec.toNat_add]
    exact lt_of_le_of_lt (Nat.mod_le _ _) hm
  exact { h.passPoll hr with
    count_rest := fun hn => absurd (hp.symm.trans hn) (by decide)
    count_lt := .inr hlt
    held_reset := heldReset_of_running hr }

/-- From RELEASE or a pulse-timer phase of a transaction to a pulse-timer phase or ASSEMBLE: only the buffer and `IDX`
are to be shown. -/
theorem enterPoll (hs : 4 ≤ s.phase.toNat) (hs8 : s.phase.toNat ≤ 8) {ph : BitVec 4} (h5 : 5 ≤ ph.toNat)
    (h9 : ph.toNat ≤ 9) {i : BitVec 6} {pm : Vector Count 80} (hi : i.toNat ≤ 39)
    (hlt : ∀ k < 80, pmEntry pm k = 0#64 ∨ (pmEntry pm k).toNat < s.params.maxCycles.toNat)
    (hfill : ∀ k < 80, (pmEntry pm k ≠ 0#64 ↔ k < filled { s with phase := ph, idx := i })) :
    RunInv (Machine.enterPoll ph { s with pm := pm, idx := i }) := by
  have ha : acquiring s := ⟨by omega, by omega⟩
  obtain ⟨hd, hl⟩ := h.pad_released hs (by omega)
  exact { h with
    phase_legal := lt_of_le_of_lt h9 (by decide)
    idx_le := hi
    cmdl_legal := fun _ => h.opcode_legal ha.1
    count_rest := fun _ => rfl
    count_lt := .inl rfl
    pm_lt := hlt
    pm_filled := fun _ => hfill
    rf_zero := fun _ => h.rf_zero ha
    txf_clear := fun _ => h.txf_clear ha
    commit_legal := fun (he : ph = phCommit) => absurd h9 (by rw [he]; decide)
    respond_tsv := fun (he : ph = phRespond) => absurd h9 (by rw [he]; decide)
    pad_legal := padLegal_released (le_trans (by decide) h5) hd hl
    closed_idle := fun hcl => absurd ((h.closed_eq_false ha.1).symm.trans hcl) (by decide)
    held_reset := heldReset_of_running hr }

/-- Into a phase of a transaction with nothing new measured. -/
theorem enterPoll_unfilled (hs : 4 ≤ s.phase.toNat) (hs8 : s.phase.toNat ≤ 8) (hf : filled s = 0) {ph : BitVec 4}
    (h5 : 5 ≤ ph.toNat) (h9 : ph.toNat ≤ 9) {i : BitVec 6} (hi : i.toNat ≤ 39)
    (hf' : filled { s with phase := ph, idx := i } = 0) : RunInv (Machine.enterPoll ph { s with idx := i }) := by
  have hpm := h.pm_filled ⟨by omega, by omega⟩
  rw [hf] at hpm
  refine h.enterPoll hr hs hs8 h5 h9 (pm := s.pm) hi h.pm_lt ?_
  rw [hf']
  exact hpm

/-- Into a phase of a transaction with one more count measured. -/
theorem enterPoll_measured (hs : 4 ≤ s.phase.toNat) (hs8 : s.phase.toNat ≤ 8) {ph : BitVec 4}
    (h5 : 5 ≤ ph.toNat) (h9 : ph.toNat ≤ 9) {i : BitVec 6} (hi : i.toNat ≤ 39) {c : Count} (hc : c ≠ 0#64)
    (hlt : c.toNat < s.params.maxCycles.toNat) {j : Nat} (hj : filled s = j)
    (hf : filled { s with phase := ph, idx := i } = j + 1) :
    RunInv (Machine.enterPoll ph { s with pm := pmSet s.pm j c, idx := i }) := by
  refine h.enterPoll hr hs hs8 h5 h9 hi (pmEntry_pmSet_lt h.pm_lt hlt) ?_
  rw [hf]
  exact pmEntry_pmSet_filled (hj ▸ h.pm_filled ⟨by omega, by omega⟩) hc

theorem release (hp : s.phase = phRelease) : RunInv (Machine.enterPoll phAckLo s) :=
  h.enterPoll_unfilled hr (i := s.idx) (by rw [hp]; decide) (by rw [hp]; decide) (by simp [filled, hp]) (by decide)
    (by decide) h.idx_le (by simp [filled])

theorem ackLo (hp : s.phase = phAckLo) : RunInv (Machine.enterPoll phAckHi s) :=
  h.enterPoll_unfilled hr (i := s.idx) (by rw [hp]; decide) (by rw [hp]; decide) (by simp [filled, hp]) (by decide)
    (by decide) h.idx_le (by simp [filled])

theorem ackHi (hp : s.phase = phAckHi) : RunInv (Machine.enterPoll phBitLo { s with idx := 0#6 }) :=
  h.enterPoll_unfilled hr (by rw [hp]; decide) (by rw [hp]; decide) (by simp [filled, hp]) (by decide) (by decide)
    (by decide) (by simp [filled])

theorem bitLo (hp : s.phase = phBitLo) {c : Count} (hc : c ≠ 0#64) (hlt : c.toNat < s.params.maxCycles.toNat) :
    RunInv (Machine.enterPoll phBitHi { s with pm := pmSet s.pm (2 * s.idx.toNat) c }) :=
  h.enterPoll_measured hr (i := s.idx) (by rw [hp]; decide) (by rw [hp]; decide) (by decide) (by decide) h.idx_le hc hlt
    (by simp [filled, hp]) (by simp [filled])

theorem bitHi (hp : s.phase = phBitHi) {c : Count} (hc : c ≠ 0#64) (hlt : c.toNat < s.params.maxCycles.toNat)
    (hi : s.idx ≠ 39#6) :
    RunInv (Machine.enterPoll phBitLo { s with pm := pmSet s.pm (2 * s.idx.toNat + 1) c, idx := s.idx + 1#6 }) := by
  have hle := h.idx_le
  have hne : s.idx.toNat ≠ 39 := fun he => hi (BitVec.eq_of_toNat_eq he)
  have hsucc : (s.idx + 1#6).toNat = s.idx.toNat + 1 := by
    rw [BitVec.toNat_add]
    exact Nat.mod_eq_of_lt (by simp; omega)
  refine h.enterPoll_measured hr (by rw [hp]; decide) (by rw [hp]; decide) (by decide) (by decide) (by omega) hc hlt
    (by simp [filled, hp]) ?_
  simp only [filled, if_true, hsucc]
  omega

theorem bitHiLast (hp : s.phase = phBitHi) {c : Count} (hc : c ≠ 0#64) (hlt : c.toNat < s.params.maxCycles.toNat)
    (hi : s.idx = 39#6) : RunInv (Machine.enterPoll phAssemble { s with pm := pmSet s.pm 79 c }) :=
  h.enterPoll_measured hr (i := s.idx) (by rw [hp]; decide) (by rw [hp]; decide) (by decide) (by decide) h.idx_le hc hlt
    (by simp [filled, hp, hi]) (by simp [filled])

/-! ## The end of a transaction -/

/-- Into COMMIT from a pulse-timer phase or ASSEMBLE, with an outcome an attempt can have. -/
theorem toCommit (hs : 5 ≤ s.phase.toNat) (hs9 : s.phase.toNat ≤ 9) {x : Txf} {f : Frame}
    (hx : attemptLegal x.kind x.idx f) : RunInv { s with rf := f, txf := x, ptCnt := 0#64, phase := phCommit } := by
  obtain ⟨hd, hl⟩ := h.pad_released (by omega) (by omega)
  exact { h with
    phase_legal := (by decide : (10#4).toNat < 12)
    cmdl_legal := fun _ => h.opcode_legal (by omega)
    count_rest := fun _ => rfl
    count_lt := .inl rfl
    pm_filled := fun ha => absurd ha (not_acquiring (.inr (by decide : 9 < (10#4).toNat)))
    rf_zero := fun ha => absurd ha (not_acquiring (.inr (by decide : 9 < (10#4).toNat)))
    txf_clear := fun ha => absurd ha (not_acquiring (.inr (by decide : 9 < (10#4).toNat)))
    commit_legal := fun _ => hx
    respond_tsv := fun hp => absurd hp (by decide : ¬ 10#4 = 11#4)
    pad_legal := padLegal_released (by decide : 4 ≤ (10#4).toNat) hd hl
    closed_idle := fun hcl => absurd ((h.closed_eq_false (by omega)).symm.trans hcl) (by decide)
    held_reset := heldReset_of_running hr }

/-- A timeout leaves the frame all zero (R123). -/
theorem raiseFailure (hp : polling s = true) {k : FailKind} {i : BitVec 6} (hx : attemptLegal k i Frame.zero) :
    RunInv (Machine.raiseFailure k i s) := by
  obtain ⟨h5, h8⟩ := polling_iff.mp hp
  rw [← h.rf_zero ⟨by omega, by omega⟩] at hx
  exact h.toCommit hr h5 (by omega) hx

theorem assemble (hp : s.phase = phAssemble) :
    RunInv { s with
      rf := assembled s
      txf := if checksumValid (assembled s) then s.txf else { kind := .checksumMismatch, idx := 0#6 }
      phase := phCommit } := by
  have ha : acquiring s := by simp [acquiring, hp]
  have hcount : s.ptCnt = 0#64 := h.ptCnt_eq_zero (.inr (by rw [hp]; decide))
  have hcommit := h.toCommit hr (by rw [hp]; decide) (by rw [hp]; decide)
    (attemptLegal_checksum (f := assembled s) (x := if checksumValid (assembled s) then s.txf else _)
      (by rw [h.txf_clear ha]))
  rw [← hcount] at hcommit
  exact hcommit

theorem commit (hp : s.phase = phCommit) :
    RunInv { s with
      cr :=
        { tsv := true, ts := s.now, ok := s.txf.kind == .none, frame := s.rf.toF40, fkind := s.txf.kind
          fidx := s.txf.idx }
      phase := phRespond } := by
  have hread : RunInv { s with
      cr :=
        { tsv := true, ts := s.now, ok := s.txf.kind == .none, frame := s.rf.toF40, fkind := s.txf.kind
          fidx := s.txf.idx } } :=
    { h with
      stamp_le := Nat.le_refl s.now
      reading_legal := by
        rw [readingLegal, if_pos rfl, frameOfF40_toF40]
        exact ⟨beq_iff_eq, h.commit_legal hp⟩
      respond_tsv := fun _ => rfl
      hit_tsv := fun _ => rfl
      held_reset := heldReset_of_running hr }
  exact hread.toRespond hr (h.opcode_legal (by rw [hp]; decide)) (h.ptCnt_eq_zero (.inr (by rw [hp]; decide))) rfl
    (h.closed_eq_false (by rw [hp]; decide)) s.hit

end Running

/-! ## Every step -/

/-- Every case of a step that is no port event, `rst` not held. -/
theorem stepCase (h : RunInv s) (hr : s.rst = false) (hc : StepCase e s t) : RunInv t := by
  have hpoll : RunInv (Machine.passPoll s) := h.passPoll hr
  have polls : ∀ {ph : BitVec 4},
      s.phase = ph → 5 ≤ ph.toNat → ph.toNat ≤ 8 → polling (Machine.passPoll s) = true :=
    fun he h5 h8 => polling_iff.mpr (he ▸ ⟨h5, h8⟩)
  cases hc with
  | overrun => exact h.overrun hr
  | illegal _ _ hb => exact h.endCommand hr _ (busy_eq_false_iff.mp hb)
  | closedDriver _ _ _ hb => exact h.endCommand hr _ (busy_eq_false_iff.mp hb)
  | hit _ op _ _ hw hb ho hh => exact h.hit hr (busy_eq_false_iff.mp hb) hw ho hh
  | acceptFault => exact h.ioError hr
  | start _ op _ _ hw hb ho => exact h.start hr (busy_eq_false_iff.mp hb) hw ho
  | close _ _ hb => exact h.close hr (busy_eq_false_iff.mp hb)
  | ignoredWrite => exact h
  | tick us => exact h.passTime hr us
  | wait => exact h
  | engineFault => exact h.ioError hr
  | stab _ hp => exact h.stab hr hp
  | wakeLo _ hp => exact h.wakeLo hr hp
  | wakeHi _ hp => exact h.wakeHi hr hp
  | release _ hp => exact h.release hr hp
  | count _ hp hm => exact h.count hr hp hm
  | ackLoFail _ hp => exact hpoll.raiseFailure hr (polls hp (by decide) (by decide)) ⟨rfl, rfl⟩
  | ackLo _ _ hp => exact hpoll.ackLo hr hp
  | ackHiFail _ hp => exact hpoll.raiseFailure hr (polls hp (by decide) (by decide)) ⟨rfl, rfl⟩
  | ackHi _ _ hp => exact hpoll.ackHi hr hp
  | bitLoFail _ hp => exact hpoll.raiseFailure hr (polls hp (by decide) (by decide)) ⟨h.idx_le, rfl⟩
  | bitLo c _ hp hres _ hc => exact hpoll.bitLo hr hp hc (h.pollResult_lt hres hc)
  | bitHiFail _ hp => exact hpoll.raiseFailure hr (polls hp (by decide) (by decide)) ⟨h.idx_le, rfl⟩
  | bitHiLast c _ hp hres _ hc hi => exact hpoll.bitHiLast hr hp hc (h.pollResult_lt hres hc) hi
  | bitHi c _ hp hres _ hc hi => exact hpoll.bitHi hr hp hc (h.pollResult_lt hres hc) hi
  | assemble _ hp => exact h.assemble hr hp
  | commit _ hp => exact h.commit hr hp
  | respondOk _ hp => exact h.respondOk hr hp
  | respondFail _ hp => exact h.respondFail hr hp

/-- One step keeps the invariant. -/
theorem step (h : RunInv s) (hs : Machine.step s = .next t) : RunInv t := by
  obtain ⟨es, n, he⟩ := takeEvent_snd s
  have htaken : RunInv (takeEvent s).2 := he ▸ h.taken es n
  rcases step_stepCase hs with hp | ⟨-, rfl⟩ | ⟨hr, hc⟩
  · exact htaken.portCase hp
  · exact htaken
  · exact htaken.stepCase hr hc

end RunInv

/-- Settles O46: the reset values meet the invariant. -/
theorem invariantAtReset : Obligations.InvariantAtReset :=
  runInv_reset _ Config.strap true false false 0#32 [] 0

/-- Settles O47: every step keeps the invariant, case by case of `step_stepCase`. -/
theorem everyStepKeepsInvariant : Obligations.EveryStepKeepsInvariant :=
  fun _ _ h hs => h.step hs

end Sys2Proof.Machine

/-! SUPPORT. Reset (10_state.md R39, 70_reset_and_hazards.md R210): the values it gives, what holds them, and what it
leaves alone. -/

namespace Sys2Proof.Machine

open Sys2Proof.Stated

variable {s t : State}

/-- Each legal strap is the code of its variant (R67). -/
theorem variantOfCode_variantCode (v : SensorVariant) : variantOfCode (variantCode v) = some v := by
  cases v <;> rfl

/-- A reset that answers a next state answers the block at its reset values. -/
theorem resetEvent_next {strap : BitVec 2} (h : resetEvent strap s = .next t) : ∃ v, t = resetBlock v s := by
  unfold resetEvent at h
  split at h
  · injection h with h
    exact ⟨_, h.symm⟩
  · cases h

theorem atResetValues_resetBlock (v : SensorVariant) (s : State) : AtResetValues v (resetBlock v s) :=
  ⟨rfl, rfl, rfl, rfl, rfl, rfl, rfl, rfl, fun k _ => pmEntry_pmZero k, rfl, rfl, rfl, rfl, rfl, rfl, rfl, rfl, rfl,
    rfl, rfl⟩

theorem atResetValues_of_sameBlock {v : SensorVariant} (h : AtResetValues v s) (hb : SameBlock s t) :
    AtResetValues v t := by
  obtain ⟨_, _, _, _, _, _, rfl⟩ := hb
  exact h

/-- Settles O43: the reset event is `resetBlock`; with `rst` held a step writes ports only; the invariant says the
rest. -/
theorem resetGivesEveryElementItsValue : Obligations.ResetGivesEveryElementItsValue := by
  refine ⟨fun s strap v he hv => ?_, fun s t v hr hv hn hs => ?_, fun s h hr => ?_⟩
  · refine ⟨resetBlock v (after s), ?_, rfl, atResetValues_resetBlock v _⟩
    rw [step_reset he, ← hv, resetEvent, variantOfCode_variantCode]
  · rcases step_sameBlock_or_stepCase hs hn with hb | ⟨hrun, -⟩
    · exact atResetValues_of_sameBlock hv hb
    · exact absurd (hr.symm.trans hrun) (by decide)
  · have hv := atResetValues_resetBlock s.variant s
    rwa [← h.held_reset hr] at hv

/-- Settles O44: `resetBlock` keeps the ports, the parameters and the coming events; no variant has code 3. -/
theorem resetTouchesOnlyTheBlock : Obligations.ResetTouchesOnlyTheBlock := by
  refine ⟨fun s t strap he hs => ?_, fun s he => ?_⟩
  · rw [step_reset he] at hs
    obtain ⟨v, rfl⟩ := resetEvent_next hs
    simp
  · rw [step_reset he]
    rfl

/-- Settles O45: the window at `State.reset`, register by register. -/
theorem windowAtReset : Obligations.WindowAtReset :=
  ⟨rfl, rfl, rfl, rfl, rfl, rfl, rfl, rfl, rfl, rfl, fun k _ => pmEntry_pmZero k⟩

end Sys2Proof.Machine

/-! SUPPORT. The writers of each element (10_state.md R12 to R27): for every field the step cases that can change it. -/

namespace Sys2Proof.Machine

open Sys2Proof.Stated

variable {e : Event} {s t : State}

namespace StepCase

/-! ## The reading, the frame, the buffer, the pad, the flags, the configuration -/

theorem cr_writer (h : StepCase e s t) (hne : t.cr ≠ s.cr) : e = .engine ∧ s.phase = phCommit := by
  cases h with
  | commit he hp => exact ⟨he, hp⟩
  | tick us => exact absurd (passTime_keeps State.cr (fun _ => rfl) us) hne
  | _ => exact absurd rfl hne

theorem rf_writer (h : StepCase e s t) (hne : t.rf ≠ s.rf) :
    (e = .engine ∧ s.phase = phAssemble) ∨ (s.phase = phIdle ∧ t.phase = phStab) := by
  cases h with
  | assemble he hp => exact .inl ⟨he, hp⟩
  | start _ _ _ _ _ hb => exact .inr ⟨busy_eq_false_iff.mp hb, rfl⟩
  | tick us => exact absurd (passTime_keeps State.rf (fun _ => rfl) us) hne
  | _ => exact absurd rfl hne

theorem pm_writer (h : StepCase e s t) (hne : t.pm ≠ s.pm) :
    (e = .engine ∧ (s.phase = phBitLo ∨ s.phase = phBitHi)) ∨ (s.phase = phIdle ∧ t.phase = phStab) := by
  cases h with
  | bitLo _ he hp => exact .inl ⟨he, .inl hp⟩
  | bitHi _ he hp | bitHiLast _ he hp => exact .inl ⟨he, .inr hp⟩
  | start _ _ _ _ _ hb => exact .inr ⟨busy_eq_false_iff.mp hb, rfl⟩
  | tick us => exact absurd (passTime_keeps State.pm (fun _ => rfl) us) hne
  | _ => exact absurd rfl hne

theorem lineDir_writer (h : StepCase e s t) (hne : t.lineDir ≠ s.lineDir) :
    (e = .engine ∧ s.phase = phWakeHi) ∨ (s.phase = phIdle ∧ t.phase = phStab) ∨
      (s.phase = phIdle ∧ ∃ v, e = .host (.write .word ctrlOffset v)) := by
  cases h with
  | wakeHi he hp => exact .inl ⟨he, hp⟩
  | start _ _ _ _ _ hb => exact .inr (.inl ⟨busy_eq_false_iff.mp hb, rfl⟩)
  | close v he hb => exact .inr (.inr ⟨busy_eq_false_iff.mp hb, v, he⟩)
  | tick us => exact absurd (passTime_keeps State.lineDir (fun _ => rfl) us) hne
  | _ => exact absurd rfl hne

theorem lineLvl_writer (h : StepCase e s t) (hne : t.lineLvl ≠ s.lineLvl) :
    (e = .engine ∧ (s.phase = phStab ∨ s.phase = phWakeLo)) ∨ (s.phase = phIdle ∧ t.phase = phStab) := by
  cases h with
  | stab he hp => exact .inl ⟨he, .inl hp⟩
  | wakeLo he hp => exact .inl ⟨he, .inr hp⟩
  | start _ _ _ _ _ hb => exact .inr ⟨busy_eq_false_iff.mp hb, rfl⟩
  | tick us => exact absurd (passTime_keeps State.lineLvl (fun _ => rfl) us) hne
  | _ => exact absurd rfl hne

theorem closed_writer (h : StepCase e s t) (hne : t.closed ≠ s.closed) :
    s.phase = phIdle ∧ t.closed = true ∧ ∃ v, e = .host (.write .word ctrlOffset v) := by
  cases h with
  | close v he hb => exact ⟨busy_eq_false_iff.mp hb, rfl, v, he⟩
  | tick us => exact absurd (passTime_keeps State.closed (fun _ => rfl) us) hne
  | _ => exact absurd rfl hne

theorem ovr_writer (h : StepCase e s t) (hne : t.ovr ≠ s.ovr) :
    s.phase ≠ phIdle ∧ t.ovr = true ∧
      ∃ v, e = .host (.write .word cmdOffset v) ∨ e = .host (.write .word ctrlOffset v) := by
  cases h with
  | overrun v addr ha he hb =>
    refine ⟨busy_eq_true_iff.mp hb, rfl, v, ?_⟩
    rcases ha with rfl | rfl
    · exact .inl he
    · exact .inr he
  | tick us => exact absurd (passTime_keeps State.ovr (fun _ => rfl) us) hne
  | _ => exact absurd rfl hne

theorem hit_writer (h : StepCase e s t) (hne : t.hit ≠ s.hit) :
    (s.phase = phIdle ∧ (∃ v, e = .host (.write .word cmdOffset v)) ∧ (t.hit = true ↔ t.phase = phRespond)) ∨
      (e = .engine ∧ LineBad s ∧ t.hit = false ∧ t.phase = phIdle ∧ t.result = .ioError) := by
  cases h with
  | illegal v he hb | closedDriver v he _ hb | acceptFault v _ he _ _ hb =>
    exact .inl ⟨busy_eq_false_iff.mp hb, ⟨v, he⟩, (by decide : false = true ↔ 0#4 = 11#4)⟩
  | hit v _ he _ _ hb => exact .inl ⟨busy_eq_false_iff.mp hb, ⟨v, he⟩, (by decide : true = true ↔ 11#4 = 11#4)⟩
  | start v _ he _ _ hb => exact .inl ⟨busy_eq_false_iff.mp hb, ⟨v, he⟩, (by decide : false = true ↔ 1#4 = 11#4)⟩
  | engineFault he _ hl => exact .inr ⟨he, lineBad_of_lineFails hl, rfl, rfl, rfl⟩
  | tick us => exact absurd (passTime_keeps State.hit (fun _ => rfl) us) hne
  | _ => exact absurd rfl hne

theorem configuration_unchanged (h : StepCase e s t) : t.variant = s.variant ∧ t.params = s.params := by
  cases h with
  | tick us => exact ⟨passTime_keeps State.variant (fun _ => rfl) us, passTime_keeps State.params (fun _ => rfl) us⟩
  | _ => exact ⟨rfl, rfl⟩

/-! ## The sequencer's registers and the outcome -/

theorem idx_writer (h : StepCase e s t) (hne : t.idx ≠ s.idx) :
    e = .engine ∧ t.phase = phBitLo ∧
      ((s.phase = phAckHi ∧ t.idx = 0#6) ∨ (s.phase = phBitHi ∧ s.idx ≠ 39#6 ∧ t.idx = s.idx + 1#6)) := by
  cases h with
  | ackHi _ he hp => exact ⟨he, rfl, .inl ⟨hp, rfl⟩⟩
  | bitHi _ he hp _ _ _ hi => exact ⟨he, rfl, .inr ⟨hp, hi, rfl⟩⟩
  | tick us => exact absurd (passTime_keeps State.idx (fun _ => rfl) us) hne
  | _ => exact absurd rfl hne

theorem cmdl_writer (h : StepCase e s t) (hne : t.cmdl ≠ s.cmdl) :
    s.phase = phIdle ∧ (t.phase = phRespond ∨ t.phase = phStab) ∧
      ∃ v, e = .host (.write .word cmdOffset v) ∧ t.cmdl = v.extractLsb' 0 8 := by
  cases h with
  | hit v _ he ho _ hb => exact ⟨busy_eq_false_iff.mp hb, .inl rfl, v, he, ho⟩
  | start v _ he ho _ hb => exact ⟨busy_eq_false_iff.mp hb, .inr rfl, v, he, ho⟩
  | tick us => exact absurd (passTime_keeps State.cmdl (fun _ => rfl) us) hne
  | _ => exact absurd rfl hne

theorem ptCnt_writer (h : StepCase e s t) (hne : t.ptCnt ≠ s.ptCnt) :
    (e = .engine ∧ s.phase ∈ [5#4, 6#4, 7#4, 8#4] ∧ t.phase = s.phase ∧ t.ptCnt = s.ptCnt + 1#64) ∨
    (e = .engine ∧ s.phase ∈ [4#4, 5#4, 6#4, 7#4, 8#4] ∧ t.phase ≠ s.phase ∧ t.ptCnt = 0#64) ∨
    ((e = .engine ∨ ∃ v, e = .host (.write .word cmdOffset v)) ∧ LineBad s ∧ t.phase = phIdle ∧ t.result = .ioError ∧
      t.ptCnt = 0#64) := by
  cases h with
  | count he hp => exact .inl ⟨he, by simpa [polling, or_assoc] using hp, rfl, rfl⟩
  | release he hp | ackLoFail he hp | ackHiFail he hp | bitLoFail he hp | bitHiFail he hp | ackLo _ he hp
  | ackHi _ he hp | bitLo _ he hp | bitHi _ he hp | bitHiLast _ he hp =>
    exact .inr (.inl ⟨he, by rw [hp]; decide, by simp [hp], rfl⟩)
  | acceptFault v _ he _ _ _ _ _ hl => exact .inr (.inr ⟨.inr ⟨v, he⟩, lineBad_of_lineFails hl, rfl, rfl, rfl⟩)
  | engineFault he _ hl => exact .inr (.inr ⟨.inl he, lineBad_of_lineFails hl, rfl, rfl, rfl⟩)
  | tick us => exact absurd (passTime_keeps State.ptCnt (fun _ => rfl) us) hne
  | _ => exact absurd rfl hne

theorem tEnter_writer (h : StepCase e s t) (hne : t.tEnter ≠ s.tEnter) :
    t.tEnter = s.now ∧ t.phase = s.phase + 1#4 ∧
      ((s.phase = phIdle ∧ ∃ v, e = .host (.write .word cmdOffset v)) ∨
        (e = .engine ∧ s.phase ∈ [1#4, 2#4, 3#4])) := by
  cases h with
  | start v _ he _ _ hb =>
    have hp := busy_eq_false_iff.mp hb
    exact ⟨rfl, by rw [hp]; rfl, .inl ⟨hp, v, he⟩⟩
  | stab he hp | wakeLo he hp | wakeHi he hp => exact ⟨rfl, by rw [hp]; rfl, .inr ⟨he, by rw [hp]; decide⟩⟩
  | tick us => exact absurd (passTime_keeps State.tEnter (fun _ => rfl) us) hne
  | _ => exact absurd rfl hne

theorem txf_writer (h : StepCase e s t) (hne : t.txf ≠ s.txf) :
    (s.phase = phIdle ∧ t.phase = phStab ∧ t.txf = { kind := .none, idx := 0#6 }) ∨
    (e = .engine ∧ s.phase ∈ [5#4, 6#4, 7#4, 8#4, 9#4] ∧ t.phase = phCommit ∧ t.txf.kind ≠ .none) := by
  cases h with
  | start _ _ _ _ _ hb => exact .inl ⟨busy_eq_false_iff.mp hb, rfl, rfl⟩
  | ackLoFail he hp | ackHiFail he hp | bitLoFail he hp | bitHiFail he hp =>
    exact .inr ⟨he, by rw [hp]; decide, rfl, by simp⟩
  | assemble he hp =>
    refine .inr ⟨he, by rw [hp]; decide, rfl, ?_⟩
    cases hv : checksumValid (assembled s) with
    | true => simp [hv] at hne
    | false => simp
  | tick us => exact absurd (passTime_keeps State.txf (fun _ => rfl) us) hne
  | _ => exact absurd rfl hne

theorem outcome_writer (h : StepCase e s t)
    (hne : (t.result, t.index, t.resHum, t.resTemp) ≠ (s.result, s.index, s.resHum, s.resTemp)) :
    t.phase = phIdle ∧
      ((e = .engine ∧ s.phase = phRespond) ∨ (e = .engine ∧ LineBad s ∧ t.result = .ioError) ∨
       (s.phase = phIdle ∧ (∃ v, e = .host (.write .word cmdOffset v)) ∧
         t.result ∈ [.ioError, .closedDriver, .illegalCommand])) := by
  cases h with
  | respondOk he hp | respondFail he hp => exact ⟨rfl, .inl ⟨he, hp⟩⟩
  | engineFault he _ hl => exact ⟨rfl, .inr (.inl ⟨he, lineBad_of_lineFails hl, rfl⟩)⟩
  | illegal v he hb | closedDriver v he _ hb | acceptFault v _ he _ _ hb =>
    exact ⟨rfl, .inr (.inr ⟨busy_eq_false_iff.mp hb, ⟨v, he⟩, by simp⟩)⟩
  | tick us => exact absurd (passTime_keeps (fun u => (u.result, u.index, u.resHum, u.resTemp)) (fun _ => rfl) us) hne
  | _ => exact absurd rfl hne

/-! ## Time -/

theorem now_le (h : StepCase e s t) : s.now ≤ t.now := by
  cases h with
  | tick us =>
    obtain ⟨n, hn, ht⟩ := passTime_frame us s
    rw [ht]
    exact hn
  | count | ackLoFail | ackLo | ackHiFail | ackHi | bitLoFail | bitLo | bitHiFail | bitHiLast | bitHi =>
    exact Nat.le_add_right _ _
  | _ => exact Nat.le_refl _

end StepCase

/-- Settles O50: the writers of each field, put together; a step that leaves the block alone writes none. -/
theorem onlyTheListedWriters : Obligations.OnlyTheListedWriters := by
  intro s t hs hn
  rcases step_sameBlock_or_stepCase hs hn with ⟨_, _, _, _, _, _, rfl⟩ | ⟨-, es, n, h⟩
  · simp
  · exact ⟨h.cr_writer, h.rf_writer, h.pm_writer, h.lineDir_writer, h.lineLvl_writer, h.closed_writer, h.ovr_writer,
      h.hit_writer, h.configuration_unchanged⟩

/-- Settles O51: as O50, for the sequencer's registers and the outcome. -/
theorem sequencerAndOutcomeWriters : Obligations.SequencerAndOutcomeWriters := by
  intro s t hs hn
  rcases step_sameBlock_or_stepCase hs hn with ⟨_, _, _, _, _, _, rfl⟩ | ⟨-, es, n, h⟩
  · simp
  · exact ⟨h.idx_writer, h.cmdl_writer, h.ptCnt_writer, h.tEnter_writer, h.txf_writer,
      fun hne => h.outcome_writer (by simpa only [ne_eq, Prod.mk.injEq, not_and_or] using hne)⟩

/-- Settles O55: no step case takes time back, and a time event outside the pulse timer is `passTime`'s last case. -/
theorem timeOnlyMovesForward : Obligations.TimeOnlyMovesForward := by
  refine ⟨fun s t hs hn => ?_, fun s us hr he hp => ?_⟩
  · rcases step_sameBlock_or_stepCase hs hn with ⟨_, _, _, _, _, _, rfl⟩ | ⟨-, es, n, h⟩
    · exact Nat.le_refl _
    · exact h.now_le
  · have ht : step s = .next (passTime us (after s)) := by
      rw [step_eq_runEvent, he]
      simp [runEvent, fetch, issuedWord, applyEvent]
    rw [ht, passTime, if_neg (by simp [hr, hp]), after_now]

end Sys2Proof.Machine

/-! SUPPORT. The registers of the window field by field (10_state.md R28 to R36), and the reserved phase codes. -/

namespace Sys2Proof.Machine

/-- A phase code from 12 on does not decode (R65). -/
theorem decodePhase_reserved {c : BitVec 4} (h : 12 ≤ c.toNat) : decodePhase c = .error (.reservedPhase c) := by
  have rejects : ∀ c : BitVec 4, 12 ≤ c.toNat → (decodePhase c).isOk = false := by decide
  cases hd : decodePhase c with
  | ok i =>
    have hr := rejects c h
    rw [hd] at hr
    cases hr
  | error r => rw [(decodePhase_error hd).1]

/-- Settles O7: the engine fetches the code, the decoder rejects it, and a rejected phase is refused. -/
theorem reservedPhaseIsRefused : Obligations.ReservedPhaseIsRefused := by
  intro s hr he hp
  rw [step_eq_runEvent, he, runEvent, fetch_running (by simpa using hr), issuedWord, after_phase]
  simp only [decode, decodePhase_reserved hp, rejectWord]

/-- The one-bit fields of STATUS, and its reserved bit 7 (R29). -/
theorem statusWord_bits (s : State) :
    (statusWord s).getLsbD 0 = busy s ∧ (statusWord s).getLsbD 1 = s.hit ∧ (statusWord s).getLsbD 2 = s.ovr ∧
      (statusWord s).getLsbD 3 = s.closed ∧ (statusWord s).getLsbD 7 = false := by
  simp only [statusWord, bit, BitVec.getLsbD_append]
  simp

/-- The wider fields of STATUS, the reserved ones included (R29): what lies below a field is peeled off piece by
piece. -/
theorem statusWord_fields (s : State) :
    (statusWord s).extractLsb' 4 3 = resultCode s.result ∧ (statusWord s).extractLsb' 8 6 = s.index ∧
      (statusWord s).extractLsb' 14 2 = 0#2 ∧ (statusWord s).extractLsb' 16 4 = s.phase ∧
      (statusWord s).extractLsb' 20 6 = s.idx ∧ (statusWord s).extractLsb' 26 6 = 0#6 := by
  unfold statusWord
  refine ⟨?_, ?_, ?_, ?_, ?_, ?_⟩
  all_goals repeat rw [BitVec.extractLsb'_append_eq_of_le (by decide)]
  case refine_6 => rfl
  all_goals exact BitVec.extractLsb'_append_eq_right

/-- Settles O36: the fields of `statusWord`. -/
theorem statusShowsItsFields : Obligations.StatusShowsItsFields := by
  intro s
  have hstatus : regRead s 0x004#12 = statusWord s := rfl
  have hbusy : busy s = decide (s.phase ≠ 0#4) := Bool.eq_iff_iff.mpr (by simp [busy])
  obtain ⟨h0, h1, h2, h3, h7⟩ := statusWord_bits s
  obtain ⟨hresult, hindex, h14, hphase, hidx, h26⟩ := statusWord_fields s
  rw [hstatus]
  exact ⟨h0.trans hbusy, h1, h2, h3, hresult, h7, hindex, h14, hphase, hidx, h26, rfl⟩

/-- Settles O37: each register is one concatenation, and each field is cut out of it. -/
theorem registersShowTheirFields : Obligations.RegistersShowTheirFields := by
  intro s
  have hctrl : regRead s 0x008#12 = ctrlWord s := rfl
  have hcfg : regRead s 0x00C#12 = cfgWord s := rfl
  have hcache : regRead s 0x020#12 = cacheWord s := rfl
  have hhum : regRead s 0x028#12 = resHumWord s.resHum := rfl
  have htemp : regRead s 0x02C#12 = resTempWord s.resTemp := rfl
  have hframe : regRead s 0x018#12 = (frameOfF40 s.cr.frame).b1 ++ (frameOfF40 s.cr.frame).b2
      ++ (frameOfF40 s.cr.frame).b3 ++ (frameOfF40 s.cr.frame).b4 := by
    simp only [frameOfF40, BitVec.extractLsb'_append_extractLsb'_eq_extractLsb']
    rfl
  refine ⟨rfl, ?_, ?_, BitVec.extractLsb'_append_extractLsb', hframe, rfl, ?_, ?_, ?_⟩
  · simp only [hctrl, ctrlWord, bit, BitVec.getLsbD_append, BitVec.extractLsb'_append_eq_ite]
    simp
  · simp only [hcfg, cfgWord, BitVec.extractLsb'_append_eq_ite]
    simp
  · simp only [hcache, cacheWord, bit, BitVec.getLsbD_append, BitVec.extractLsb'_append_eq_ite]
    simp
  · simp only [hhum, resHumWord, bit, BitVec.getLsbD_append, BitVec.extractLsb'_append_eq_ite]
    simp
  · simp only [htemp, resTempWord, bit, BitVec.getLsbD_append, BitVec.extractLsb'_append_eq_ite]
    simp

end Sys2Proof.Machine

/-! SUPPORT. The binary32 rendering (43_frame_decoder.md R147): rounding to the nearest, the exponent of a magnitude in
tenths, and the fields of the word. -/

namespace Sys2Proof.Machine

/-! ## Rounding -/

/-- The rounded quotient is within half of the exact one, and even when exactly between two. -/
theorem divNearestEven_nearest (n : Nat) {d : Nat} (hd : 0 < d) :
    2 * (d * divNearestEven n d) ≤ 2 * n + d ∧ 2 * n ≤ 2 * (d * divNearestEven n d) + d ∧
      (2 * (d * divNearestEven n d) = 2 * n + d ∨ 2 * n = 2 * (d * divNearestEven n d) + d →
        divNearestEven n d % 2 = 0) := by
  have hn := Nat.div_add_mod n d
  have hr := Nat.mod_lt n hd
  unfold divNearestEven
  simp only [Bool.or_eq_true, Bool.and_eq_true, decide_eq_true_eq, beq_iff_eq]
  split
  · rename_i hup
    rw [Nat.mul_add]
    omega
  · rename_i hdown
    omega

/-! ## The exponent and the significand of `mag / 10` -/

/-- `k` is the exponent of `16 · mag / 10` (R147). -/
theorem log2_tenths {mag k : Nat} (hm : mag ≠ 0) (hk : k = Nat.log2 (mag * 16 / 10)) :
    10 * 2 ^ k ≤ 16 * mag ∧ 16 * mag < 10 * 2 ^ (k + 1) := by
  have hne : mag * 16 / 10 ≠ 0 := by omega
  have hlo : 2 ^ k ≤ mag * 16 / 10 := (Nat.le_log2 hne).mp (le_of_eq hk)
  have hhi : mag * 16 / 10 < 2 ^ (k + 1) := (Nat.log2_lt hne).mp (by omega)
  omega

/-- The exponent of a 16-bit magnitude is at most 16. -/
theorem log2_tenths_le {mag : Nat} (hm : mag ≠ 0) (h16 : mag < 2 ^ 16) : Nat.log2 (mag * 16 / 10) ≤ 16 :=
  Nat.lt_succ_iff.mp ((Nat.log2_lt (by omega)).mpr (by omega))

/-- The rounded significand of a 16-bit magnitude is a normal one: rounding never carries into the exponent, because the
scaled magnitude is a multiple of 2048 and so stays clear of `10 · 2 ^ 24`. -/
theorem significand_normal {mag k : Nat} (hm : mag ≠ 0) (h16 : mag < 2 ^ 16) (hk : k = Nat.log2 (mag * 16 / 10)) :
    2 ^ 23 ≤ divNearestEven (mag * 2 ^ (27 - k)) 10 ∧ divNearestEven (mag * 2 ^ (27 - k)) 10 < 2 ^ 24 := by
  have hk16 : k ≤ 16 := hk ▸ log2_tenths_le hm h16
  obtain ⟨hlo, hhi⟩ := log2_tenths hm hk
  obtain ⟨hq1, hq2, -⟩ := divNearestEven_nearest (mag * 2 ^ (27 - k)) (d := 10) (by decide)
  generalize divNearestEven (mag * 2 ^ (27 - k)) 10 = q at hq1 hq2
  clear hk h16
  interval_cases k <;> simp only [Nat.reducePow, Nat.reduceSub, Nat.reduceAdd] at * <;> omega

/-- The rendering of a 16-bit magnitude that is not 0: exponent field, fraction, and the rounded significand they
stand for. -/
theorem f32Magnitude_eq {mag : Nat} (hm : mag ≠ 0) (h16 : mag < 2 ^ 16) :
    ∃ k m, k ≤ 16 ∧ m < 2 ^ 23 ∧ f32Magnitude mag = (k + 123) * 2 ^ 23 + m ∧
      2 ^ 23 + m = divNearestEven (mag * 2 ^ (27 - k)) 10 := by
  obtain ⟨hlo, hhi⟩ := significand_normal hm h16 rfl
  exact ⟨_, divNearestEven (mag * 2 ^ (27 - Nat.log2 (mag * 16 / 10))) 10 - 2 ^ 23, log2_tenths_le hm h16, by omega,
    by rw [f32Magnitude, if_neg hm], by omega⟩

/-! ## The fields of the word -/

/-- The sign bit above 31 bits of exponent and fraction. -/
theorem signed_getLsbD (neg : Bool) (b : BitVec 31) : (BitVec.ofBool neg ++ b).getLsbD 31 = neg := by
  simp only [BitVec.getLsbD_append]
  simp

theorem signed_exponent (neg : Bool) {k m : Nat} (hk : k ≤ 16) (hm : m < 2 ^ 23) :
    ((BitVec.ofBool neg ++ BitVec.ofNat 31 ((k + 123) * 2 ^ 23 + m)).extractLsb' 23 8).toNat = k + 123 := by
  rw [BitVec.extractLsb'_append_eq_of_add_le (by decide), BitVec.extractLsb'_toNat, BitVec.toNat_ofNat,
    Nat.shiftRight_eq_div_pow]
  omega

theorem signed_fraction (neg : Bool) {k m : Nat} (hm : m < 2 ^ 23) :
    ((BitVec.ofBool neg ++ BitVec.ofNat 31 ((k + 123) * 2 ^ 23 + m)).extractLsb' 0 23).toNat = m := by
  rw [BitVec.extractLsb'_append_eq_of_add_le (by decide), BitVec.extractLsb'_toNat, BitVec.toNat_ofNat,
    Nat.shiftRight_zero]
  omega

/-- `neg16` is subtraction from 0 (R7). -/
theorem neg16_eq (v : BitVec 16) : neg16 v = 0#16 - v := by
  apply BitVec.eq_of_toNat_eq
  rw [neg16, BitVec.toNat_ofNat, BitVec.toNat_sub]
  simp

/-- Settles O34: the rendering is the rounded significand of `f32Magnitude_eq`, which is the nearest, ties to even. -/
theorem binary32ViewIsNearestTenth : Obligations.Binary32ViewIsNearestTenth := by
  refine ⟨fun s => ⟨rfl, ?_⟩, rfl, fun _ _ _ => rfl, fun f neg => ?_, fun neg mag hmag => ?_⟩
  · rw [← neg16_eq]
    rfl
  · rw [f32View, if_pos rfl, renderedMagnitude_zero]
  · have hm : mag.toNat ≠ 0 := fun h => hmag (BitVec.eq_of_toNat_eq h)
    obtain ⟨k, m, hk, hlt, hf, hsig⟩ := f32Magnitude_eq hm mag.isLt
    obtain ⟨hle, hge, htie⟩ := divNearestEven_nearest (mag.toNat * 2 ^ (27 - k)) (d := 10) (by decide)
    rw [← hsig] at hle hge htie
    have hview : f32View .correctlyRounded true neg mag
        = BitVec.ofBool neg ++ BitVec.ofNat 31 ((k + 123) * 2 ^ 23 + m) := by
      rw [← hf]
      rfl
    have hexp : 150 - (k + 123) = 27 - k := by omega
    simp only [hview, signed_getLsbD, signed_exponent neg hk hlt, signed_fraction neg hlt, hexp]
    exact ⟨trivial, by omega, by omega, by omega, by omega, fun h => htie (by omega)⟩

end Sys2Proof.Machine

/-! SUPPORT. The host's accesses at a step (20_memory.md R44 to R46), and what a step runs while `rst` is held or not
(R60, R210). -/

namespace Sys2Proof.Machine

open Sys2Proof.Stated

variable {e : Event} {s : State} {addr : Offset} {v : Word}

theorem aligned_of_mod_eq_zero (h : addr.toNat % 4 = 0) : Offset.aligned addr = true := beq_iff_eq.mpr h

theorem read_not_wf {size : AccessSize} (h : size ≠ .word ∨ addr.toNat % 4 ≠ 0) :
    (HostAccess.read size addr).wf = false := by
  simpa [HostAccess.wf, Offset.aligned, imp_iff_not_or] using h

theorem write_not_wf {size : AccessSize} (h : size ≠ .word ∨ addr.toNat % 4 ≠ 0) (v : Word) :
    (HostAccess.write size addr v).wf = false :=
  read_not_wf h

/-- An access that does not exist issues no instruction: `CMD` and `CTRL` are aligned words (R46). -/
theorem writtenWord_of_not_wf {size : AccessSize} (h : size ≠ .word ∨ addr.toNat % 4 ≠ 0) (v : Word) :
    writtenWord size addr v = none := by
  cases size with
  | byte | half => rfl
  | word =>
    have hmod : addr.toNat % 4 ≠ 0 := h.resolve_left (absurd rfl)
    have h0 : addr ≠ cmdOffset := fun ha => hmod (by rw [ha]; rfl)
    have h8 : addr ≠ ctrlOffset := fun ha => hmod (by rw [ha]; rfl)
    simp only [writtenWord, if_neg h0, if_neg h8]

/-- An event that fetches nothing does what it does as an event. -/
theorem runEvent_of_fetch_eq_none (h : fetch e s = none) : runEvent e s = applyEvent e s := by
  simp only [runEvent, h]

theorem fetch_eq_none_of_issuedWord (h : issuedWord e s = none) : fetch e s = none := by
  rw [fetch, h, ite_self]

/-- While `rst` is held a step does what its event does as an event (R210). -/
theorem step_held (hr : s.rst = true) : step s = applyEvent (event s) (after s) :=
  runEvent_of_fetch_eq_none (fetch_held ((after_rst s).trans hr) _)

/-- While `rst` is not held a step runs the instruction that the word its event issues decodes to. -/
theorem step_of_decode {w : FetchWord} {i : Instr} (hr : s.rst = false) (hw : issuedWord (event s) (after s) = some w)
    (hd : decode w = .ok i) : step s = exec i (after s) := by
  have hf : fetch (event s) (after s) = some w := by rw [fetch_running ((after_rst s).trans hr), hw]
  simp only [step_eq_runEvent, runEvent, hf, hd]

theorem applyEvent_write (ha : Offset.aligned addr = true) (v : Word) (s : State) :
    applyEvent (.host (.write .word addr v)) s = .next s :=
  if_pos ha

theorem step_writeCmd (hr : s.rst = false) (he : event s = .host (.write .word cmdOffset v)) :
    step s = .next (if Opcode.wf (v.extractLsb' 0 8) then command (v.extractLsb' 0 8) (after s)
      else illegalCommand (after s)) := by
  rw [step_eq_runEvent, he, runEvent_writeCmd v ((after_rst s).trans hr)]

theorem step_writeCtrl (hr : s.rst = false) (he : event s = .host (.write .word ctrlOffset v)) :
    step s = .next (if v.getLsbD 0 then closeDriver (after s) else ctrlNoOperation (after s)) := by
  rw [step_eq_runEvent, he, runEvent_writeCtrl v ((after_rst s).trans hr)]

theorem step_writeElse (h0 : addr ≠ cmdOffset) (h8 : addr ≠ ctrlOffset) (ha : addr.toNat % 4 = 0)
    (he : event s = .host (.write .word addr v)) : step s = .next (after s) := by
  rw [step_eq_runEvent, he, runEvent_writeElse h0 h8 (aligned_of_mod_eq_zero ha)]

/-- `CMD` and `CTRL` are among the lowest offsets; a write above them is ignored (R45, R48). -/
theorem step_writeAbove (h : 0x008 < addr.toNat) (ha : addr.toNat % 4 = 0)
    (he : event s = .host (.write .word addr v)) : step s = .next (after s) :=
  step_writeElse (fun h0 => absurd h (by rw [h0]; decide)) (fun h8 => absurd h (by rw [h8]; decide)) ha he

/-- Settles O6: the event is the list's head, the fetch issues its word, and while `rst` is held it issues none. -/
theorem stepRunsDecodedInstruction : Obligations.StepRunsDecodedInstruction := by
  refine ⟨fun s e es hs => ?_, fun s i hr he hd => ?_, fun s v i hr he hd => ?_, fun s v hr he hv => ?_,
    fun s v hr he => ?_⟩
  · simp [event, after, takeEvent, hs]
  · exact step_of_decode hr (by rw [he, issuedWord, after_phase]) hd
  · exact step_of_decode hr (by rw [he]; rfl) hd
  · have hb : v.extractLsb' 0 1 = 1#1 := by
      ext j hj
      obtain rfl : j = 0 := by omega
      simpa using hv
    exact step_of_decode hr (w := .ctrl (v.extractLsb' 0 1)) (by rw [he]; rfl) (by rw [hb]; rfl)
  · rw [step_held hr]
    rcases he with he | he | he <;> rw [he]
    · rfl
    · exact applyEvent_write rfl v _
    · exact applyEvent_write rfl v _

/-- Settles O40: what `runEvent_read` says of an aligned word. -/
theorem readChangesNothing : Obligations.ReadChangesNothing := by
  intro s addr ha he
  rw [step_eq_runEvent, he, runEvent_read (aligned_of_mod_eq_zero ha)]

/-- Settles O42: such an access fetches nothing and fails the check of its own event. -/
theorem otherAccessesAreRefused : Obligations.OtherAccessesAreRefused := by
  intro s size addr v h
  refine ⟨fun he => ?_, fun he => ?_⟩
  · rw [step_eq_runEvent, he, runEvent_of_fetch_eq_none (fetch_eq_none_of_issuedWord rfl), applyEvent, hostRead,
      read_not_wf h, if_neg Bool.false_ne_true]
  · have hn : issuedWord (.host (.write size addr v)) (after s) = none := writtenWord_of_not_wf h v
    rw [step_eq_runEvent, he, runEvent_of_fetch_eq_none (fetch_eq_none_of_issuedWord hn), applyEvent, hostWriteIgnored,
      write_not_wf h v, if_neg Bool.false_ne_true]

/-! ## Writes to `CMD` and `CTRL` -/

/-- Each row of the command table decodes to its instruction and is legal (R62, R63). -/
theorem decode_commandRows : ∀ r ∈ commandRows, decode (.cmd r.2) = .ok r.1 := by
  simp [commandRows, decode, decodeCmd]

/-- A legal opcode is one of the table (R62, R63). -/
theorem opcode_not_wf {op : Byte} (h : ∀ r ∈ commandRows, op ≠ r.2) : Opcode.wf op = false := by
  rcases decodeCmd_cases op with ⟨-, i, hd, -⟩ | ⟨hw, -⟩
  · rcases decodeCmd_ok_cases hd with ⟨rfl, -⟩ | ⟨rfl, -⟩ | ⟨rfl, -⟩ | ⟨rfl, -⟩ | ⟨rfl, -⟩ <;>
      simp [commandRows] at h
  · exact hw

theorem busy_after_of_ne (hp : s.phase ≠ 0#4) : busy (after s) = true := by
  rwa [busy_eq_true_iff, after_phase]

theorem busy_after_of_idle (hp : s.phase = 0#4) : busy (after s) = false := by
  rwa [busy_eq_false_iff, after_phase]

/-- A write to `CMD` or `CTRL` while a command executes sets `OVR`, whatever the word (R45, R190). -/
theorem step_writeBusy (hr : s.rst = false) (hp : s.phase ≠ 0#4) (ha : addr = cmdOffset ∨ addr = ctrlOffset)
    (he : event s = .host (.write .word addr v)) : step s = .next (overrun (after s)) := by
  have hb : busy (after s) = true := busy_after_of_ne hp
  rcases ha with rfl | rfl
  · rw [step_writeCmd hr he, command, illegalCommand, if_pos hb, if_pos hb, ite_self]
  · rw [step_writeCtrl hr he, closeDriver, ctrlNoOperation, if_pos hb, if_pos hb, ite_self]

/-- Settles O41: `CMD` and `CTRL`, each while busy and in IDLE, and every other offset. -/
theorem writesActOnlyOnCmdAndCtrl : Obligations.WritesActOnlyOnCmdAndCtrl := by
  intro s addr v hr ha he
  refine ⟨fun h0 hp => step_writeBusy hr hp (.inl h0) he, ?_, ?_, fun h8 hp => step_writeBusy hr hp (.inr h8) he, ?_, ?_,
    fun h0 h8 => step_writeElse h0 h8 ha he⟩
  · rintro rfl - r hrow hop
    exact step_of_decode hr (w := .cmd (v.extractLsb' 0 8)) (by rw [he]; rfl) (hop ▸ decode_commandRows r hrow)
  · rintro rfl hp hop
    rw [step_writeCmd hr he, opcode_not_wf hop, if_neg Bool.false_ne_true, illegalCommand,
      busy_after_of_idle hp, if_neg Bool.false_ne_true]
    rfl
  · rintro rfl hp hv
    rw [step_writeCtrl hr he, if_pos hv, closeDriver, busy_after_of_idle hp, if_neg Bool.false_ne_true]
    rfl
  · rintro rfl hp hv
    rw [step_writeCtrl hr he, hv, if_neg Bool.false_ne_true, ctrlNoOperation, busy_after_of_idle hp,
      if_neg Bool.false_ne_true]

end Sys2Proof.Machine

/-! SUPPORT. The window above the named registers (20_memory.md R48 to R50). -/

namespace Sys2Proof.Machine

open Sys2Proof.Stated

variable {s : State} {addr : Offset}

/-- Above the last named register the window is the capture buffer's words and zeros. -/
theorem regRead_above (h : 0x034 < addr.toNat) :
    regRead s addr = if 0x400 ≤ addr.toNat ∧ addr.toNat ≤ 0x67C then pmWindow s addr.toNat else 0#32 := by
  unfold regRead
  split
  case h_13 => rfl
  all_goals omega

theorem regRead_pmWindow (h : 0x400 ≤ addr.toNat) (h' : addr.toNat ≤ 0x67C) :
    regRead s addr = pmWindow s addr.toNat := by
  rw [regRead_above (by omega), if_pos ⟨h, h'⟩]

/-- The lower word of an entry (R49). -/
theorem pmWindow_low (s : State) (k : Nat) : pmWindow s (0x400 + 8 * k) = (pmEntry s.pm k).extractLsb' 0 32 := by
  have hk : (0x400 + 8 * k - 0x400) / 8 = k := by omega
  simp only [pmWindow, hk]
  exact if_neg (by omega)

/-- The upper word of an entry (R49). -/
theorem pmWindow_high (s : State) (k : Nat) : pmWindow s (0x404 + 8 * k) = (pmEntry s.pm k).extractLsb' 32 32 := by
  have hk : (0x404 + 8 * k - 0x400) / 8 = k := by omega
  simp only [pmWindow, hk]
  exact if_pos (by omega)

theorem toNat_offset {n : Nat} (h : n ≤ 0xFFF) : (BitVec.ofNat 12 n).toNat = n := by
  rw [BitVec.toNat_ofNat, Nat.mod_eq_of_lt (by omega)]

/-- Settles O38: both words of entry `k` lie in the window, above `CMD` and `CTRL`. -/
theorem bufferWindowShowsEveryEntry : Obligations.BufferWindowShowsEveryEntry := by
  intro s k hk
  have hlow : (BitVec.ofNat 12 (0x400 + 8 * k)).toNat = 0x400 + 8 * k := toNat_offset (by omega)
  have hhigh : (BitVec.ofNat 12 (0x404 + 8 * k)).toNat = 0x404 + 8 * k := toNat_offset (by omega)
  refine ⟨?_, ?_, fun v he => ?_⟩
  · rw [regRead_pmWindow (by omega) (by omega), hlow, pmWindow_low]
  · rw [regRead_pmWindow (by omega) (by omega), hhigh, pmWindow_high]
  · rcases he with he | he
    · exact step_writeAbove (by omega) (by omega) he
    · exact step_writeAbove (by omega) (by omega) he

/-- Settles O39: 0x024 is no register, the other ranges are outside the buffer's words; all lie above `CTRL`. -/
theorem reservedOffsetsReadZeroIgnoreWrites : Obligations.ReservedOffsetsReadZeroIgnoreWrites := by
  intro s addr ha hres
  refine ⟨?_, fun v he => step_writeAbove (by omega) ha he⟩
  rcases hres with h24 | hrange
  · obtain rfl : addr = 0x024#12 := BitVec.eq_of_toNat_eq h24
    rfl
  · rw [regRead_above (by omega), if_neg (by omega)]

end Sys2Proof.Machine

/-! SUPPORT. Who may change what the host reads (20_memory.md R51, R52; 41_protocol_engine.md R114): in IDLE the host
alone, by `CMD` and `CTRL`; in every other phase not the host, but for `OVR`. -/

namespace Sys2Proof.Machine

open Sys2Proof.Stated

variable {e : Event} {s t : State}

/-! ## In IDLE -/

/-- In IDLE the engine waits, so without a write to `CMD` or `CTRL` only time moves (R51, R65). -/
theorem StepCase.idle_frame (h : StepCase e s t) (hp : s.phase = phIdle)
    (hw : ∀ v, e ≠ .host (.write .word cmdOffset v) ∧ e ≠ .host (.write .word ctrlOffset v)) :
    ∃ n, t = { s with now := n } := by
  cases h with
  | overrun v addr _ _ hb => exact absurd hp (busy_eq_true_iff.mp hb)
  | illegal v he | closedDriver v he | hit v _ he | acceptFault v _ he | start v _ he => exact absurd he (hw v).1
  | close v he => exact absurd he (hw v).2
  | ignoredWrite | wait => exact ⟨s.now, rfl⟩
  | tick us =>
    obtain ⟨n, -, h⟩ := passTime_frame us s
    exact ⟨n, h⟩
  | engineFault _ hf => exact absurd hf (by rw [hp]; decide)
  | count _ hf => exact absurd hf (by simp [polling, hp])
  | stab _ hf | wakeLo _ hf | wakeHi _ hf | release _ hf | ackLoFail _ hf | ackLo _ _ hf | ackHiFail _ hf
  | ackHi _ _ hf | bitLoFail _ hf | bitLo _ _ hf | bitHiFail _ hf | bitHiLast _ _ hf | bitHi _ _ hf | assemble _ hf
  | commit _ hf | respondOk _ hf | respondFail _ hf => exact absurd (hp.symm.trans hf) (by decide)

/-- Settles O53: such a step leaves the block alone but for time, and no register shows the time. -/
theorem idleResultsAreStable : Obligations.IdleResultsAreStable := by
  intro s t hs hp hn hw addr
  rcases step_sameBlock_or_stepCase hs hn with ⟨_, _, _, _, _, _, rfl⟩ | ⟨-, _, _, hc⟩
  · rfl
  · obtain ⟨_, rfl⟩ := hc.idle_frame hp hw
    rfl

/-! ## In every other phase -/

theorem PortCase.host_frame {a : HostAccess} (h : PortCase (.host a) s t) : ∃ d, t = { s with hostData := d } := by
  cases h with
  | read addr => exact ⟨regRead s addr, rfl⟩
  | _ => contradiction

/-- While a command executes a write sets `OVR` or is ignored (R52, R190). -/
theorem StepCase.host_busy_frame {a : HostAccess} (h : StepCase (.host a) s t) (hp : s.phase ≠ phIdle) :
    ∃ o, t = { s with ovr := o } := by
  cases h with
  | overrun => exact ⟨true, rfl⟩
  | ignoredWrite => exact ⟨s.ovr, rfl⟩
  | illegal _ _ hb | closedDriver _ _ _ hb | hit _ _ _ _ _ hb | acceptFault _ _ _ _ _ hb | start _ _ _ _ _ hb
  | close _ _ hb => exact absurd (busy_eq_false_iff.mp hb) hp
  | _ => contradiction

/-- `OVR` and the bus port set to given values: all that a host access can change while a command executes. -/
def setHostSide (o : Bool) (d : Word) (s : State) : State := { s with ovr := o, hostData := d }

section Commutes

variable (o : Bool) (d : Word)

theorem lineStep_setHostSide (s done : State) :
    lineStep (setHostSide o d s) (setHostSide o d done) = setHostSide o d (lineStep s done) :=
  (apply_ite (setHostSide o d) (lineFails s = true) (ioError s) done).symm

theorem hold_setHostSide (us : Nat) {exit : State → State} (s : State)
    (hx : exit (setHostSide o d s) = setHostSide o d (exit s)) :
    hold us exit (setHostSide o d s) = setHostSide o d (hold us exit s) := by
  rw [hold, hx]
  exact (apply_ite (setHostSide o d) (holdDone us s = true) (exit s) s).symm

theorem pollStep_setHostSide (level : Bool) {exit : Count → State → State} (s : State)
    (hx : ∀ c u, exit c (setHostSide o d u) = setHostSide o d (exit c u)) :
    pollStep level exit (setHostSide o d s) = setHostSide o d (pollStep level exit s) := by
  rw [pollStep, pollStep, ← lineStep_setHostSide, apply_ite (setHostSide o d), apply_ite (setHostSide o d), ← hx, ← hx]
  rfl

/-- No exit of the pulse timer looks at `OVR` or the bus port. -/
theorem timerExit_setHostSide {i : Instr} {p : Bool × (Count → State → State)} (h : timerExit i = some p) (c : Count)
    (s : State) : p.2 c (setHostSide o d s) = setHostSide o d (p.2 c s) := by
  cases i with
  | ackLo | ackHi | bitLo | bitHi =>
    injection h with h
    subst h
    simp only [ackLoExit, ackHiExit, bitLoExit, bitHiExit, apply_ite (setHostSide o d)]
    rfl
  | _ => cases h

theorem deliver_setHostSide (s : State) : deliver (setHostSide o d s) = setHostSide o d (deliver s) := by
  rw [deliver, deliver, apply_ite (setHostSide o d)]
  rfl

theorem exec_timer_setHostSide {i : Instr} {p : Bool × (Count → State → State)} (h : timerExit i = some p) (s : State) :
    exec i (setHostSide o d s) = onNext (setHostSide o d) (exec i s) := by
  rw [exec_timer h, exec_timer h, pollStep_setHostSide o d p.1 s (timerExit_setHostSide o d h)]
  rfl

/-- What a phase's step does neither depends on `OVR` and the bus port nor writes them (R114). -/
theorem exec_setHostSide {i : Instr} {c : BitVec 4} (hi : encode i = .phase c) (s : State) :
    exec i (setHostSide o d s) = onNext (setHostSide o d) (exec i s) := by
  cases i with
  | cap | capF | rdt | rdh | rdb | close => cases hi
  | idle | assemble | commit => rfl
  | stab =>
    exact congrArg Host.Outcome.next
      (hold_setHostSide o d tStab s (lineStep_setHostSide o d s (enterHold phWakeLo (setLevel false s))))
  | wakeLo =>
    exact congrArg Host.Outcome.next
      (hold_setHostSide o d tWakeLo s (lineStep_setHostSide o d s (enterHold phWakeHi (setLevel true s))))
  | wakeHi =>
    exact congrArg Host.Outcome.next
      (hold_setHostSide o d tWakeHi s (lineStep_setHostSide o d s (enterHold phRelease (setDirection .input s))))
  | release => exact congrArg Host.Outcome.next (hold_setHostSide o d tRelease s rfl)
  | ackLo | ackHi | bitLo | bitHi => exact exec_timer_setHostSide o d rfl s
  | respond => exact congrArg Host.Outcome.next (deliver_setHostSide o d s)

end Commutes

/-- Settles O54: a host access is a read, or a write that sets `OVR` or nothing; every phase's step commutes with
changing both. -/
theorem criticalSectionIgnoresTheHost : Obligations.CriticalSectionIgnoresTheHost := by
  have hrows : ∀ r ∈ phaseRows, encode r.1 = .phase r.2 := by decide
  refine ⟨fun s t a he hp hs => ?_, fun s o d r hr => exec_setHostSide o d (hrows r hr) s⟩
  rw [step_eq_runEvent, he] at hs
  rcases runEvent_stepCase hs with hc | ⟨-, rfl⟩ | ⟨-, hc⟩
  · obtain ⟨d, rfl⟩ := hc.host_frame
    exact ⟨(after s).ovr, d, rfl⟩
  · exact ⟨(after s).ovr, (after s).hostData, rfl⟩
  · obtain ⟨o, rfl⟩ := hc.host_busy_frame (by rwa [after_phase])
    exact ⟨o, (after s).hostData, rfl⟩

end Sys2Proof.Machine

/-! SUPPORT. The encodings (30_encoding.md R60 to R67, R74): decoder and encoder as inverses, which words the field rules
admit, and the numbers of the codes. -/

namespace Sys2Proof.Machine

open Sys2Proof.Stated

/-! ## Decoder and encoder -/

@[simp] theorem decode_encode (i : Instr) : decode (encode i) = .ok i := by
  cases i <;> rfl

/-- A word decodes to an instruction exactly when it is that instruction's encoding. -/
theorem decode_eq_ok_iff {w : FetchWord} {i : Instr} : decode w = .ok i ↔ encode i = w := by
  constructor
  · intro h
    cases w with
    | cmd op =>
      rcases decodeCmd_ok_cases h with ⟨rfl, rfl⟩ | ⟨rfl, rfl⟩ | ⟨rfl, rfl⟩ | ⟨rfl, rfl⟩ | ⟨rfl, rfl⟩ <;> rfl
    | ctrl b =>
      obtain ⟨rfl, rfl⟩ := decodeCtrl_ok_cases h
      rfl
    | phase code => exact decodePhase_ok_encode h
  · rintro rfl
    exact decode_encode i

/-- Settles O3: the two directions of `decode_eq_ok_iff`. -/
theorem decodeEncodeAgree : Obligations.DecodeEncodeAgree :=
  ⟨decode_encode, fun _ _ => decode_eq_ok_iff.mp⟩

/-! ## The tables -/

theorem encode_phaseRows : ∀ r ∈ phaseRows, encode r.1 = .phase r.2 := by decide

/-- Settles O1: the rows decode, and `decodeCmd_ok_cases` lists what decodes. -/
theorem commandOpcodesDecode : Obligations.CommandOpcodesDecode := by
  refine ⟨decode_commandRows, fun op i h => ?_⟩
  rcases decodeCmd_ok_cases h with ⟨rfl, rfl⟩ | ⟨rfl, rfl⟩ | ⟨rfl, rfl⟩ | ⟨rfl, rfl⟩ | ⟨rfl, rfl⟩ <;> decide

/-- Settles O2: each row of the phase table is an encoding, so it decodes; the codes from 12 on are reserved. -/
theorem closeAndPhaseCodesDecode : Obligations.CloseAndPhaseCodesDecode :=
  ⟨⟨rfl, rfl⟩, fun r hr => decode_eq_ok_iff.mpr (encode_phaseRows r hr), fun _ => decodePhase_reserved⟩

/-! ## The field rules -/

/-- An instruction's encoding meets the field rules of its format (R61, R64, R65). -/
theorem encode_wf (i : Instr) : (encode i).wf = true := by
  cases i <;> rfl

/-- A word that meets the field rules of its format decodes. -/
theorem exists_decode_of_wf {w : FetchWord} (h : w.wf = true) : ∃ i, decode w = .ok i := by
  cases w with
  | cmd op =>
    rcases decodeCmd_cases op with ⟨-, i, hd, -⟩ | ⟨hw, -⟩
    · exact ⟨i, hd⟩
    · exact absurd (hw.symm.trans h) Bool.false_ne_true
  | ctrl b =>
    obtain rfl : b = 1#1 := beq_iff_eq.mp h
    exact ⟨.close, rfl⟩
  | phase code =>
    have hlt : code.toNat < 12 := decide_eq_true_eq.mp h
    cases hd : decodePhase code with
    | ok i => exact ⟨i, hd⟩
    | error r => exact absurd (decodePhase_error hd).2 (Nat.not_le_of_lt hlt)

/-- Settles O4: a legal word decodes, and a word that decodes is an encoding, which is legal. -/
theorem fieldRulesDecideLegality : Obligations.FieldRulesDecideLegality := by
  refine fun w => ⟨exists_decode_of_wf, ?_⟩
  rintro ⟨i, hd⟩
  rw [← decode_eq_ok_iff.mp hd]
  exact encode_wf i

/-! ## The codes, and the phase that waits -/

/-- No failure kind has the number of an outcome that the cache does not record (R74). -/
theorem failCode_not_mem (k : FailKind) : failCode k ∉ [1#3, 5#3, 6#3, 7#3] := by
  cases k <;> decide

/-- Settles O5: the tables' numbers by computation, the numbers left out by `failCode_not_mem`. -/
theorem codesAreTheTables : Obligations.CodesAreTheTables :=
  ⟨by decide, by decide, by decide, failCode_not_mem⟩

/-- Settles O17: `exec` gives IDLE the meaning `execIdle`, which answers the state it is given. -/
theorem idleEngineStepWaits : Obligations.IdleEngineStepWaits :=
  fun _ => rfl

end Sys2Proof.Machine

/-! SUPPORT. The hold phases and the polling cycles (40_line_and_timer.md R84 to R93), stated for every row of the tables
at once. -/

namespace Sys2Proof.Machine

open Sys2Proof.Stated

variable {e : Event} {s t : State} {r : Instr × BitVec 4 × Bool}

/-! ## The hold phases -/

/-- The step of each hold phase is `hold` for its duration, with an exit of its own (R103 to R106). -/
theorem exec_holdRow {r : Instr × Nat} (h : r ∈ holdRows) : ∃ exit, ∀ s, exec r.1 s = .next (hold r.2 exit s) := by
  simp only [holdRows, List.mem_cons, List.not_mem_nil, or_false] at h
  rcases h with rfl | rfl | rfl | rfl <;> exact ⟨_, fun _ => rfl⟩

/-- Before its duration has passed a hold phase waits (R84). -/
theorem hold_of_lt {d : Nat} (hd : 0 < d) (h : s.now < s.tEnter + d) (exit : State → State) : hold d exit s = s := by
  rcases hold_cases d exit s with ⟨-, he⟩ | ⟨hdone, -⟩
  · exact he
  · omega

/-- Settles O18: the four durations are positive, so `hold_of_lt` speaks of each row. -/
theorem holdWaitsForItsDuration : Obligations.HoldWaitsForItsDuration := by
  have hpos : ∀ r ∈ holdRows, 0 < r.2 := by decide
  intro s r hr h
  obtain ⟨exit, hx⟩ := exec_holdRow hr
  rw [hx, hold_of_lt (hpos r hr) h]

/-! ## One polling cycle -/

theorem lineFails_of_lineOk (h : LineOk s) : lineFails s = false := Bool.and_eq_false_iff.mpr h

theorem lineStep_of_lineOk (h : LineOk s) (done : State) : lineStep s done = done :=
  if_neg (by simp [lineFails_of_lineOk h])

/-- Each row of the timer's table has its exit in `timerExit`, with the level it awaits (R87). -/
theorem timerExit_timerRow (h : r ∈ timerRows) : ∃ exit, timerExit r.1 = some (r.2.2, exit) := by
  simp only [timerRows, List.mem_cons, List.not_mem_nil, or_false] at h
  rcases h with rfl | rfl | rfl | rfl <;> exact ⟨_, rfl⟩

/-- A polling cycle that ends the timer takes `T_POLL` and does the phase's exit with the result (R87). -/
theorem pollStep_of_pollEnds {level : Bool} {c : Count} (hl : LineOk s) (h : PollEnds level s c)
    (exit : Count → State → State) : pollStep level exit s = exit c (passPoll s) := by
  rw [pollStep, lineStep_of_lineOk hl]
  rcases h with ⟨hne, rfl⟩ | ⟨heq, hmax, rfl⟩
  · rw [if_pos (bne_iff_ne.mpr hne)]
  · rw [if_neg (by simp [heq]), if_pos hmax]

/-- A polling cycle after which the timer goes on takes `T_POLL` and counts (R87). -/
theorem pollStep_of_pollGoesOn {level : Bool} (hl : LineOk s) (h : PollGoesOn level s)
    (exit : Count → State → State) : pollStep level exit s = { passPoll s with ptCnt := s.ptCnt + 1#64 } := by
  obtain ⟨heq, hlt⟩ := h
  rw [pollStep, lineStep_of_lineOk hl, if_neg (by simp [heq]), if_neg (Nat.not_le_of_lt hlt)]

/-- The counter of a timer that goes on stays below `MAX_CYCLES`, so it does not wrap (R15, R90). -/
theorem toNat_ptCnt_succ {level : Bool} (h : PollGoesOn level s) : (s.ptCnt + 1#64).toNat = s.ptCnt.toNat + 1 := by
  have hlt : s.ptCnt.toNat + 1 < s.params.maxCycles.toNat := h.2
  have hmax : s.params.maxCycles.toNat < 2 ^ 64 := s.params.maxCycles.isLt
  rw [BitVec.toNat_add]
  exact Nat.mod_eq_of_lt (hlt.trans hmax)

/-- The row's instruction at a sample that counts. -/
theorem exec_of_pollGoesOn (hr : r ∈ timerRows) (hl : LineOk s) (h : PollGoesOn r.2.2 s) :
    exec r.1 s = .next { passPoll s with ptCnt := s.ptCnt + 1#64 } := by
  obtain ⟨exit, hx⟩ := timerExit_timerRow hr
  rw [exec_timer hx, pollStep_of_pollGoesOn hl h]

/-- Settles O20: the cycle is `exec_of_pollGoesOn`, and `passPoll` moves the clock only. -/
theorem matchingSampleCounts : Obligations.MatchingSampleCounts :=
  fun _ _ hr hl h => ⟨⟨_, _, exec_of_pollGoesOn hr hl h⟩, toNat_ptCnt_succ h⟩

/-- With `MAX_CYCLES` 0 or 1 a fresh call ends at its first sample with 0 (R89). -/
theorem pollEnds_zero_of_tiny (level : Bool) (hm : s.params.maxCycles.toNat ≤ 1) (hc : s.ptCnt = 0#64) :
    PollEnds level s 0#64 := by
  by_cases hl : s.lineIn = level
  · exact .inr ⟨hl, Nat.le_add_left_of_le hm, rfl⟩
  · exact .inl ⟨hl, hc.symm⟩

/-- The exit with result 0 is the phase's timeout (R107 to R110). -/
theorem timerExit_zero {i : Instr} {level : Bool} {exit : Count → State → State} (h : timerExit i = some (level, exit))
    (s : State) :
    exit 0#64 s = raiseFailure (if i = .ackLo ∨ i = .ackHi then .timeoutAck else .timeoutBit)
      (if i = .ackLo ∨ i = .ackHi then 0#6 else s.idx) s := by
  cases i with
  | ackLo | ackHi | bitLo | bitHi =>
    obtain ⟨rfl, rfl⟩ := Prod.mk.inj (Option.some.inj h)
    rfl
  | _ => cases h

/-- Settles O24: the first cycle ends the call with 0, whatever the sample, and the exit with 0 is the timeout. -/
theorem tinyMaxCyclesAlwaysTimesOut : Obligations.TinyMaxCyclesAlwaysTimesOut := by
  intro s r hr hl hm hc
  obtain ⟨exit, hx⟩ := timerExit_timerRow hr
  have hstep := pollStep_of_pollEnds hl (pollEnds_zero_of_tiny r.2.2 hm hc) exit
  rw [exec_timer hx, hstep, timerExit_zero hx]
  exact ⟨_, _, rfl⟩

/-! ## The clock while the timer runs -/

/-- The clock in nanoseconds (log 5). -/
def clockNs (s : State) : Nat := s.now * 1000 + s.nowSub

theorem clockNs_passPoll (s : State) : clockNs (passPoll s) = clockNs s + s.params.tPollNs := by
  have hdiv := Nat.div_add_mod (s.nowSub + s.params.tPollNs) 1000
  simp only [clockNs, passPoll_now, passPoll_nowSub]
  omega

/-- No exit of the pulse timer looks at the clock or moves it. -/
theorem clockNs_timerExit {i : Instr} {level : Bool} {exit : Count → State → State}
    (h : timerExit i = some (level, exit)) (c : Count) (s : State) : clockNs (exit c s) = clockNs s := by
  cases i with
  | ackLo | ackHi | bitLo | bitHi =>
    obtain ⟨rfl, rfl⟩ := Prod.mk.inj (Option.some.inj h)
    simp only [ackLoExit, ackHiExit, bitLoExit, bitHiExit, apply_ite clockNs]
    simp [clockNs]
  | _ => cases h

/-- Of the cases of a step only an engine step, and a time event outside the pulse timer, move the clock (R17, R93). -/
theorem StepCase.clock_writer (h : StepCase e s t) (hne : (t.now, t.nowSub) ≠ (s.now, s.nowSub)) :
    e = .engine ∨ polling s = false := by
  cases h with
  | tick us =>
    rcases passTime_cases us s with ⟨-, hs⟩ | ⟨-, hp, -⟩
    · exact absurd (by rw [hs]) hne
    · exact .inr hp
  | count he | ackLoFail he | ackLo _ he | ackHiFail he | ackHi _ he | bitLoFail he | bitLo _ he | bitHiFail he
  | bitHiLast _ he | bitHi _ he => exact .inl he
  | _ => exact absurd rfl hne

/-- Settles O25: a cycle adds `T_POLL` whether the timer ends or goes on; `StepCase.clock_writer` says the rest. -/
theorem pollingCyclesAreTPollApart : Obligations.PollingCyclesAreTPollApart := by
  refine ⟨fun s t r hr hl h => ?_, fun s t hp he hn hs => ?_⟩
  · obtain ⟨exit, hx⟩ := timerExit_timerRow hr
    rw [exec_timer hx] at h
    injection h with h
    show clockNs t = clockNs s + s.params.tPollNs
    rcases pollStep_result r.2.2 exit s with ⟨hf, -⟩ | ⟨-, -, -, hon⟩ | ⟨c, -, -, hend⟩
    · exact absurd (hf.symm.trans (lineFails_of_lineOk hl)) (by decide)
    · rw [← h, hon]
      exact clockNs_passPoll s
    · rw [← h, hend, clockNs_timerExit hx, clockNs_passPoll]
  · rcases step_sameBlock_or_stepCase hs hn with ⟨_, _, _, _, _, _, rfl⟩ | ⟨-, es, n, hc⟩
    · exact ⟨rfl, rfl⟩
    · by_contra hne
      rcases hc.clock_writer fun hq => hne (Prod.mk.inj hq) with he' | hp'
      · exact he he'
      · exact Bool.false_ne_true (hp'.symm.trans hp)

end Sys2Proof.Machine

/-! SUPPORT. The ports (40_line_and_timer.md R80, R83, R85; 20_memory.md R44): the event of each, and that nothing else
writes it. -/

namespace Sys2Proof.Machine

open Sys2Proof.Stated

variable {e : Event} {s t : State}

/-- No instruction and no time event writes a port. -/
theorem StepCase.ports_unchanged (h : StepCase e s t) :
    t.lineIn = s.lineIn ∧ t.lineFault = s.lineFault ∧ t.rst = s.rst ∧ t.hostData = s.hostData := by
  cases h with
  | tick us =>
    exact ⟨passTime_keeps State.lineIn (fun _ => rfl) us, passTime_keeps State.lineFault (fun _ => rfl) us,
      passTime_keeps State.rst (fun _ => rfl) us, passTime_keeps State.hostData (fun _ => rfl) us⟩
  | _ => exact ⟨rfl, rfl, rfl, rfl⟩

/-- The ports `t` has other than `s` are those that `e` writes, with the value `e` gives them. -/
def PortsFollow (e : Event) (s t : State) : Prop :=
  (t.lineIn ≠ s.lineIn → e = .line t.lineIn) ∧
  (t.lineFault ≠ s.lineFault → e = .fault t.lineFault) ∧
  (t.rst ≠ s.rst → (t.rst = true ∧ ∃ strap, e = .reset strap) ∨ (t.rst = false ∧ e = .release)) ∧
  (t.hostData ≠ s.hostData → ∃ addr, e = .host (.read .word addr) ∧ t.hostData = regRead s addr)

theorem portsFollow_of_unchanged
    (h : t.lineIn = s.lineIn ∧ t.lineFault = s.lineFault ∧ t.rst = s.rst ∧ t.hostData = s.hostData) :
    PortsFollow e s t := by
  obtain ⟨hin, hfault, hrst, hdata⟩ := h
  exact ⟨absurd hin, absurd hfault, absurd hrst, absurd hdata⟩

/-- An event on a port writes that port; a reset writes `rst` of them. -/
theorem PortCase.portsFollow (h : PortCase e s t) : PortsFollow e s t := by
  cases h with
  | read addr he => exact ⟨absurd rfl, absurd rfl, absurd rfl, fun _ => ⟨addr, he, rfl⟩⟩
  | line l he => exact ⟨fun _ => he, absurd rfl, absurd rfl, absurd rfl⟩
  | fault f he => exact ⟨absurd rfl, fun _ => he, absurd rfl, absurd rfl⟩
  | reset strap v he => exact ⟨absurd rfl, absurd rfl, fun _ => .inl ⟨rfl, strap, he⟩, absurd rfl⟩
  | release he => exact ⟨absurd rfl, absurd rfl, fun _ => .inr ⟨rfl, he⟩, absurd rfl⟩

theorem runEvent_portsFollow (h : runEvent e s = .next t) : PortsFollow e s t := by
  rcases runEvent_stepCase h with hp | ⟨-, rfl⟩ | ⟨-, hc⟩
  · exact hp.portsFollow
  · exact portsFollow_of_unchanged ⟨rfl, rfl, rfl, rfl⟩
  · exact portsFollow_of_unchanged hc.ports_unchanged

@[simp] theorem regRead_after (s : State) (addr : Offset) : regRead (after s) addr = regRead s addr :=
  after_keeps (regRead · addr) fun _ _ => rfl

/-- An event that issues no instruction does at a step what it does as an event. -/
theorem step_of_event (he : event s = e) (hi : issuedWord e (after s) = none) : step s = applyEvent e (after s) := by
  rw [step_eq_runEvent, he, runEvent_of_fetch_eq_none (fetch_eq_none_of_issuedWord hi)]

/-- Settles O52: the three events issue no instruction, and `runEvent_portsFollow` is what a port's change says. -/
theorem eachPortHasItsOwnEvent : Obligations.EachPortHasItsOwnEvent := by
  refine ⟨fun s l he => step_of_event he rfl, fun s f he => step_of_event he rfl, fun s he => step_of_event he rfl,
    fun s t h => ?_⟩
  have hports := runEvent_portsFollow (step_eq_runEvent s ▸ h)
  simpa only [PortsFollow, resets, after_lineIn, after_lineFault, after_rst, after_hostData, regRead_after] using hports

end Sys2Proof.Machine

/-! SUPPORT. The pulse timer in the large (40_line_and_timer.md R86, R88, R92): the big-step `ExpectPulse`, and the
polling cycles over the same samples. -/

namespace Sys2Proof.Machine

open Sys2Proof.Stated

/-! ## The contract: one lemma per kind of sample -/

section Contract

variable {level x : Bool} {maxCycles cnt n : Nat} {xs : List Bool}

theorem expectPulse_cons_of_ne (hx : x ≠ level) : expectPulse level maxCycles cnt (x :: xs) = some (cnt, xs) := by
  rw [expectPulse, if_pos (bne_iff_ne.mpr hx)]

theorem expectPulse_cons_of_le (h : maxCycles ≤ cnt + 1) :
    expectPulse level maxCycles cnt (level :: xs) = some (0, xs) := by
  rw [expectPulse, if_neg (by simp), if_pos h]

theorem expectPulse_cons_of_lt (h : cnt + 1 < maxCycles) :
    expectPulse level maxCycles cnt (level :: xs) = expectPulse level maxCycles (cnt + 1) xs := by
  rw [expectPulse, if_neg (by simp), if_neg (Nat.not_le_of_lt h)]

/-- A run of matching samples that stays below `MAX_CYCLES` is counted (R87, R88). -/
theorem expectPulse_replicate (h : cnt + n < maxCycles) :
    expectPulse level maxCycles cnt (List.replicate n level ++ xs) = expectPulse level maxCycles (cnt + n) xs := by
  induction n generalizing cnt with
  | zero => rfl
  | succ n ih =>
    calc expectPulse level maxCycles cnt (level :: (List.replicate n level ++ xs))
      _ = expectPulse level maxCycles (cnt + 1) (List.replicate n level ++ xs) := expectPulse_cons_of_lt (by omega)
      _ = expectPulse level maxCycles (cnt + 1 + n) xs := ih (by omega)
      _ = expectPulse level maxCycles (cnt + (n + 1)) xs := by rw [Nat.add_right_comm, Nat.add_assoc]

end Contract

/-- Settles O57: the run is counted by `expectPulse_replicate`, and its last sample ends the call. -/
theorem expectPulseCountsTheRun : Obligations.ExpectPulseCountsTheRun := by
  intro level maxCycles n xs
  have hdiffers : (!level) ≠ level := Bool.not_ne_self level
  refine ⟨fun hn => ?_, fun hm => ?_⟩
  · rcases hn with rfl | hlt
    · exact expectPulse_cons_of_ne hdiffers
    · rw [expectPulse_replicate (by omega), Nat.zero_add, expectPulse_cons_of_ne hdiffers]
  · obtain ⟨m, rfl⟩ : ∃ m, maxCycles = m + 1 := ⟨maxCycles - 1, by omega⟩
    rw [List.replicate_succ', List.append_assoc, expectPulse_replicate (by omega), List.singleton_append,
      expectPulse_cons_of_le (by omega)]

/-! ## The polling cycles over the same samples -/

section Cycles

variable {s : State} {r : Instr × BitVec 4 × Bool}

/-- In a pulse-timer phase the engine runs that row's instruction (R65, R87). -/
theorem runEvent_timerRow (hr : r ∈ timerRows) (hrst : s.rst = false) (hp : s.phase = r.2.1) :
    runEvent .engine s = exec r.1 s := by
  have hencode : ∀ r ∈ timerRows, encode r.1 = .phase r.2.1 := by decide
  have hd : decode (.phase r.2.1) = .ok r.1 := decode_eq_ok_iff.mpr (hencode r hr)
  simp only [runEvent, fetch_running hrst, issuedWord, hp, hd]

theorem polling_timerRow (hr : r ∈ timerRows) (hp : s.phase = r.2.1) : polling s = true := by
  have hcodes : ∀ r ∈ timerRows, 5 ≤ r.2.1.toNat ∧ r.2.1.toNat ≤ 8 := by decide
  rw [polling_iff, hp]
  exact hcodes r hr

/-- `s` after the samples of a run so far: the counter, the time and the pin (R87). -/
def polledTo (n : Count) (tm sub : Nat) (pin : Bool) (s : State) : State :=
  { s with ptCnt := n, now := tm, nowSub := sub, lineIn := pin }

/-- A sample that counts is one engine step of `runSamples`, after which the timer has taken it. -/
theorem runSamples_cons_of_pollGoesOn {x : Bool} {xs : List Bool} (hr : r ∈ timerRows) (hrst : s.rst = false)
    (hp : s.phase = r.2.1) (hl : LineOk s) (h : PollGoesOn r.2.2 { s with lineIn := x }) :
    ∃ tm sub, runSamples (x :: xs) s = runSamples xs (polledTo (s.ptCnt + 1#64) tm sub x s) := by
  have hstep : runEvent .engine { s with lineIn := x } = .next
      { passPoll { s with lineIn := x } with ptCnt := s.ptCnt + 1#64 } :=
    (runEvent_timerRow (s := { s with lineIn := x }) hr hrst hp).trans
      (exec_of_pollGoesOn (s := { s with lineIn := x }) hr hl h)
  rw [runSamples, if_pos (polling_timerRow hr hp), hstep]
  exact ⟨_, _, rfl⟩

/-- From any count on: if `ExpectPulse` ends on the stream, the cycles reach the sample at which it ends. Induction on
the samples; the counter is the contract's as long as the timer goes on. -/
theorem runSamples_of_expectPulse {xs : List Bool} {c : Nat} {rest : List Bool} (hr : r ∈ timerRows)
    (hrst : s.rst = false) (hp : s.phase = r.2.1) (hl : LineOk s)
    (h : expectPulse r.2.2 s.params.maxCycles.toNat s.ptCnt.toNat xs = some (c, rest)) :
    ∃ n tm sub pin x, runSamples xs s = runSamples (x :: rest) (polledTo n tm sub pin s) ∧
      PollEnds r.2.2 (polledTo n tm sub x s) (BitVec.ofNat 64 c) ∧ (BitVec.ofNat 64 c).toNat = c := by
  induction xs generalizing s with
  | nil => cases h
  | cons x xs ih =>
    by_cases hx : x = r.2.2
    · rcases Nat.lt_or_ge (s.ptCnt.toNat + 1) s.params.maxCycles.toNat with hlt | hge
      · have hon : PollGoesOn r.2.2 { s with lineIn := x } := ⟨hx, hlt⟩
        rw [hx, expectPulse_cons_of_lt hlt, ← toNat_ptCnt_succ hon] at h
        obtain ⟨tm, sub, hrun⟩ := runSamples_cons_of_pollGoesOn (xs := xs) hr hrst hp hl hon
        rw [hrun]
        exact ih (s := polledTo (s.ptCnt + 1#64) tm sub x s) hrst hp hl h
      · rw [hx, expectPulse_cons_of_le hge] at h
        obtain ⟨rfl, rfl⟩ := Prod.mk.inj (Option.some.inj h)
        exact ⟨s.ptCnt, s.now, s.nowSub, s.lineIn, x, rfl, .inr ⟨hx, hge, rfl⟩, rfl⟩
    · rw [expectPulse_cons_of_ne hx] at h
      obtain ⟨rfl, rfl⟩ := Prod.mk.inj (Option.some.inj h)
      exact ⟨s.ptCnt, s.now, s.nowSub, s.lineIn, x, rfl, .inl ⟨hx, by simp [polledTo]⟩, by simp⟩

end Cycles

/-- Settles O56: `runSamples_of_expectPulse` at the count 0. -/
theorem pollingComputesExpectPulse : Obligations.PollingComputesExpectPulse := by
  intro s xs c rest r hr hrst hp hl hc h
  exact runSamples_of_expectPulse hr hrst hp hl (by rwa [hc])

end Sys2Proof.Machine

/-! SUPPORT. Acceptance and the throttle (41_protocol_engine.md R101, R102, R115): which words are commands, and what a
command answers in IDLE, said once for all five. -/

namespace Sys2Proof.Machine

open Sys2Proof.Stated

variable {s t : State} {op : Byte} {r : Instr × Byte}

/-! ## The conditions of the chain -/

/-- The legal opcodes are those of the table (R62, R63). -/
theorem opcode_wf_iff_mem : Opcode.wf op = true ↔ op ∈ commandRows.map Prod.snd := by
  have hrows : ∀ r ∈ commandRows, Opcode.wf r.2 = true := by decide
  constructor
  · intro hw
    by_contra hn
    have hill : Opcode.wf op = false := opcode_not_wf fun r hr he => hn (he ▸ List.mem_map_of_mem hr)
    exact Bool.false_ne_true (hill.symm.trans hw)
  · intro h
    obtain ⟨r, hr, rfl⟩ := List.mem_map.mp h
    exact hrows r hr

/-- The truncated difference of the model is below the interval exactly when the sum of the rule is above `now`. -/
theorem cacheHit_iff : cacheHit op s = true ↔ Hits op s := by
  have htime : s.now - s.cr.ts < tMinInterval ↔ s.now < s.cr.ts + 2000000 := by
    unfold tMinInterval
    omega
  simp [cacheHit, forceFlag, htime, and_assoc]

theorem lineFails_iff : lineFails s = true ↔ LineBad s := Bool.and_eq_true_iff

theorem not_lineBad_of_lineOk (h : LineOk s) : ¬ LineBad s :=
  fun hb => Bool.false_ne_true ((lineFails_of_lineOk h).symm.trans (lineFails_iff.mpr hb))

/-- Of the five commands `CAP.F` alone is forced (R61, R116). -/
theorem forced_iff (hr : r ∈ commandRows) : r.2.getLsbD 1 = true ↔ r.1 = .capF := by
  have hrows : ∀ r ∈ commandRows, (r.2.getLsbD 1 = true ↔ r.1 = .capF) := by decide
  exact hrows r hr

/-! ## What a command answers -/

theorem exec_commandRow (hr : r ∈ commandRows) (s : State) : exec r.1 s = .next (command r.2 s) := by
  have hrows : ∀ r ∈ commandRows, r.1.isCommand = true ∧ opcodeOf r.1 = r.2 := by decide
  obtain ⟨hc, ho⟩ := hrows r hr
  rw [exec_command r.1 hc, ho]

/-- Acceptance in IDLE: closed, hit, fault, transaction, in this order (R101, R102, R187, R188). -/
theorem command_idle (hp : s.phase = 0#4) :
    command op s =
      if s.closed = true then ended .closedDriver s
      else if Hits op s then hitAccepted op s
      else if LineBad s then faulted s
      else started op s := by
  have hidle : busy s = false := busy_eq_false_iff.mpr hp
  rcases command_cases op s with
    ⟨hb, -⟩ | ⟨-, hc, he⟩ | ⟨-, hc, hh, he⟩ | ⟨-, hc, hh, hl, he⟩ | ⟨-, hc, hh, hl, he⟩
  · exact absurd (hidle.symm.trans hb) Bool.false_ne_true
  all_goals rw [he]
  · rw [if_pos hc]
    rfl
  all_goals rw [if_neg (by simp [hc])]
  · rw [if_pos (cacheHit_iff.mp hh)]
    rfl
  all_goals rw [if_neg (by simp [← cacheHit_iff, hh])]
  · rw [if_pos (lineFails_iff.mp hl)]
    rfl
  · rw [if_neg (by simp [← lineFails_iff, hl])]
    rfl

/-- In IDLE, open and with a line that works, a command is a hit or starts a transaction. -/
theorem exec_command_open (hr : r ∈ commandRows) (hp : s.phase = 0#4) (hc : s.closed = false) (hl : LineOk s) :
    exec r.1 s = .next (if Hits r.2 s then hitAccepted r.2 s else started r.2 s) := by
  rw [exec_commandRow hr, command_idle hp, if_neg (by simp [hc]), if_neg (not_lineBad_of_lineOk hl)]

/-- Settles O9: the second case of `command_idle`, which comes before the line is looked at. -/
theorem cacheHitAnswersAtAcceptance : Obligations.CacheHitAnswersAtAcceptance := by
  intro s r hr hp hc hh
  rw [exec_commandRow hr, command_idle hp, if_neg (by simp [hc]), if_pos hh]

/-- Settles O10: each of the three conditions excludes a hit. -/
theorem freshCommandStartsTransaction : Obligations.FreshCommandStartsTransaction := by
  intro s r hr hp hc hl hfresh
  have hmiss : ¬ Hits r.2 s := by
    rintro ⟨hforce, htsv, hnow⟩
    rcases hfresh with hcapF | hstale | hold
    · exact Bool.false_ne_true (hforce.symm.trans ((forced_iff hr).mpr hcapF))
    · exact Bool.false_ne_true (hstale.symm.trans htsv)
    · omega
  rw [exec_command_open hr hp hc hl, if_neg hmiss]

/-- Settles O11: with an attempt recorded and no force, a hit is a matter of time alone. -/
theorem throttleIsStrictAndKeepsCache : Obligations.ThrottleIsStrictAndKeepsCache := by
  intro s t r hr hp hc hl htsv hne h
  have hforce : r.2.getLsbD 1 = false := Bool.eq_false_iff.mpr fun hf => hne ((forced_iff hr).mp hf)
  rw [exec_command_open hr hp hc hl] at h
  injection h with h
  subst h
  by_cases hnow : s.now < s.cr.ts + 2000000
  · rw [if_pos ⟨hforce, htsv, hnow⟩]
    exact ⟨by simp [hitAccepted, hnow], by simp [hitAccepted, hnow], rfl⟩
  · rw [if_neg fun hh : Hits r.2 s => hnow hh.2.2]
    exact ⟨by simp [started, hnow], by simp [started, Nat.le_of_not_lt hnow], rfl⟩

theorem hits_after : Hits op (after s) ↔ Hits op s :=
  iff_of_eq (after_keeps (Hits op) fun _ _ => rfl)

theorem lineBad_after : LineBad (after s) ↔ LineBad s :=
  iff_of_eq (after_keeps LineBad fun _ _ => rfl)

/-- Settles O8: a word that is no command is illegal, and the others are `command_idle` at the state with the event
taken. -/
theorem cmdWriteInIdleIsAccepted : Obligations.CmdWriteInIdleIsAccepted := by
  intro s v hr he hp
  have hclosed : (after s).closed = s.closed := after_keeps _ fun _ _ => rfl
  have hlist : v.extractLsb' 0 8 ∈ [0x01#8, 0x03#8, 0x04#8, 0x08#8, 0x0C#8] ↔
      Opcode.wf (v.extractLsb' 0 8) = true :=
    opcode_wf_iff_mem.symm
  have hp' : (after s).phase = 0#4 := (after_phase s).trans hp
  rw [step_writeCmd hr he, command_idle hp']
  simp only [hlist, hits_after, lineBad_after, hclosed, ite_not]
  rw [illegalCommand, busy_after_of_idle hp, if_neg Bool.false_ne_true]
  rfl

end Sys2Proof.Machine

/-! SUPPORT. The sequencer's phases one step at a time: the holds and their exits (41_protocol_engine.md R103 to R106),
the exits of the pulse timer (R107 to R110), COMMIT (R112). -/

namespace Sys2Proof.Machine

open Sys2Proof.Stated

variable {s : State}

/-! ## The hold phases -/

/-- The truncated difference of the model reaches a positive duration exactly when `now` reaches the sum of the rule. -/
theorem hold_eq {d : Nat} (hd : 0 < d) (exit : State → State) (s : State) :
    hold d exit s = if s.now < s.tEnter + d then s else exit s := by
  rcases hold_cases d exit s with ⟨hlt, he⟩ | ⟨hge, he⟩
  · rw [he, if_pos (by omega)]
  · rw [he, if_neg (by omega)]

/-- A hold phase that ends with a line primitive, the line working. -/
theorem hold_lineStep_eq {d : Nat} (hd : 0 < d) (hl : LineOk s) (done : State → State) :
    hold d (fun s => lineStep s (done s)) s = if s.now < s.tEnter + d then s else done s := by
  rw [hold_eq hd, lineStep_of_lineOk hl]

/-- Settles O19: the three holds that end with a line primitive, and RELEASE, which issues none. -/
theorem holdPhasesWaitThenExit : Obligations.HoldPhasesWaitThenExit := by
  refine ⟨fun s hl => ?_, fun s hl => ?_, fun s hl => ?_, fun s => ?_⟩
  · exact congrArg Host.Outcome.next
      (hold_lineStep_eq (by decide : 0 < tStab) hl fun s => enterHold phWakeLo (setLevel false s))
  · exact congrArg Host.Outcome.next
      (hold_lineStep_eq (by decide : 0 < tWakeLo) hl fun s => enterHold phWakeHi (setLevel true s))
  · exact congrArg Host.Outcome.next
      (hold_lineStep_eq (by decide : 0 < tWakeHi) hl fun s => enterHold phRelease (setDirection .input s))
  · exact congrArg Host.Outcome.next (hold_eq (by decide : 0 < tRelease) (enterPoll phAckLo) s)

/-! ## The exits of the pulse timer -/

/-- The step at which the timer ends takes `T_POLL` and does the phase's exit with the result (R87). -/
theorem exec_of_pollEnds {i : Instr} {level : Bool} {exit : Count → State → State} {c : Count}
    (hx : timerExit i = some (level, exit)) (hl : LineOk s) (h : PollEnds level s c) :
    exec i s = .next (exit c (passPoll s)) := by
  rw [exec_timer hx, pollStep_of_pollEnds hl h]

/-- A write of an entry of the buffer, as R18 says it. -/
theorem pmEntry_pmSet_of_lt (pm : Vector Count 80) {j : Nat} (hj : j < 80) (c : Count) (k : Nat) :
    pmEntry (pmSet pm j c) k = if k = j then c else pmEntry pm k := by
  rw [pmEntry_pmSet]
  by_cases hk : k = j
  · rw [if_pos ⟨hk.symm, hj⟩, if_pos hk]
  · rw [if_neg fun h => hk h.1.symm, if_neg hk]

/-- Settles O21: `ackLoExit` and `ackHiExit` at the state whose clock has moved. -/
theorem acknowledgePhasesExit : Obligations.AcknowledgePhasesExit :=
  ⟨fun _ _ hl h => ⟨_, _, exec_of_pollEnds (i := .ackLo) rfl hl h⟩,
    fun _ _ hl h => ⟨_, _, exec_of_pollEnds (i := .ackHi) rfl hl h⟩⟩

/-- Settles O22: the two cases of `bitLoExit`. -/
theorem bitLoExitStoresLowCount : Obligations.BitLoExitStoresLowCount := by
  intro s c hl hi h
  have hstep : exec .bitLo s = .next (bitLoExit c (passPoll s)) := exec_of_pollEnds rfl hl h
  refine ⟨(passPoll s).now, (passPoll s).nowSub, fun hc => ?_, fun hc => ?_⟩
  · rw [hstep, bitLoExit, if_pos hc]
    rfl
  · refine ⟨pmSet s.pm (2 * s.idx.toNat) c, fun k _ => pmEntry_pmSet_of_lt s.pm (by omega) c k, ?_⟩
    rw [hstep, bitLoExit, if_neg hc]
    rfl

/-- Settles O23: the three cases of `bitHiExit`; the last pair's entry is 79. -/
theorem bitHiExitStoresHighCount : Obligations.BitHiExitStoresHighCount := by
  intro s c hl hi h
  have hstep : exec .bitHi s = .next (bitHiExit c (passPoll s)) := exec_of_pollEnds rfl hl h
  refine ⟨(passPoll s).now, (passPoll s).nowSub, fun hc => ?_, fun hc => ?_⟩
  · rw [hstep, bitHiExit, if_pos hc]
    rfl
  · refine ⟨pmSet s.pm (2 * s.idx.toNat + 1) c, fun k _ => pmEntry_pmSet_of_lt s.pm (by omega) c k, fun hlast => ?_,
      fun hnext => ?_⟩
    · have hentry : 2 * s.idx.toNat + 1 = 79 := by rw [hlast]; rfl
      rw [hstep, bitHiExit, if_neg hc, passPoll_idx, if_pos hlast, hentry]
      rfl
    · have hsucc : s.idx + 1#6 = BitVec.ofNat 6 (s.idx.toNat + 1) := by
        rw [BitVec.ofNat_add, BitVec.ofNat_toNat, BitVec.setWidth_eq]
      rw [hstep, bitHiExit, if_neg hc, passPoll_idx, if_neg hnext, hsucc]
      rfl

/-! ## COMMIT -/

theorem toF40_zero : Frame.zero.toF40 = 0#40 := by decide

/-- Settles O28: COMMIT stores the frame as its number; `RunInv.commit_legal` says what the frame is after a failure. -/
theorem commitReplacesTheReading : Obligations.CommitReplacesTheReading := by
  intro s
  refine ⟨s.rf.toF40, frameOfF40_toF40 s.rf, rfl, fun h hp => ?_⟩
  have hlegal : attemptLegal s.txf.kind s.txf.idx s.rf := h.commit_legal hp
  refine ⟨fun hk => ?_, fun hk => ?_⟩
  · have hzero : s.rf = Frame.zero := by
      rcases hk with hk | hk
      all_goals
        rw [hk] at hlegal
        exact hlegal.2
    rw [hzero, toF40_zero]
  · rw [hk] at hlegal
    rw [frameOfF40_toF40]
    exact hlegal.2

end Sys2Proof.Machine

/-! SUPPORT. The transition table (41_protocol_engine.md R118): the row of each step case that changes the phase. -/

namespace Sys2Proof.Machine

open Sys2Proof.Stated

variable {s t : State} {es : List Event} {n : Nat}

/-- A duration that the truncated difference has reached (R84). -/
theorem tEnter_add_le {d : Nat} (hd : 0 < d) (h : d ≤ s.now - s.tEnter) : s.tEnter + d ≤ s.now := by omega

/-- A step case that changes the phase is a row of the table with the row's condition, or an engine step that met a line
fault. -/
theorem tableRow_of_stepCase (h : StepCase (event s) { s with inputs := es, freeIdx := n } t)
    (hne : t.phase ≠ s.phase) :
    TableRow s t ∨
      (LineBad s ∧ s.phase ∈ [1#4, 2#4, 3#4, 5#4, 6#4, 7#4, 8#4] ∧ event s = .engine ∧ t.phase = 0#4 ∧
        t.result = .ioError) := by
  cases h with
  | hit v op he ho hw hb hc hh =>
    subst ho
    exact .inl (.inl ⟨busy_eq_false_iff.mp hb, rfl, hc, v, he, opcode_wf_iff_mem.mp hw, cacheHit_iff.mp hh⟩)
  | start v op he ho hw hb hc hh =>
    subst ho
    exact .inl (.inr (.inl ⟨busy_eq_false_iff.mp hb, rfl, hc, v, he, opcode_wf_iff_mem.mp hw,
      fun hits => Bool.false_ne_true (hh.symm.trans (cacheHit_iff.mpr hits))⟩))
  | engineFault he hp hl => exact .inr ⟨lineFails_iff.mp hl, hp, he, rfl, rfl⟩
  | stab he hp hd | wakeLo he hp hd | wakeHi he hp hd | release he hp hd =>
    have hp : s.phase = _ := hp
    have hsum := tEnter_add_le (s := s) (by decide) hd
    exact .inl (.inr (.inr ⟨he, by simpa [hp, tStab, tWakeLo, tWakeHi, tRelease] using hsum⟩))
  | ackLo c he hp hr _ hc | ackHi c he hp hr _ hc | bitLo c he hp hr _ hc =>
    have hp : s.phase = _ := hp
    have hends : ∃ c, c ≠ 0#64 ∧ PollEnds _ s c := ⟨c, hc, hr⟩
    exact .inl (.inr (.inr ⟨he, by simpa [hp] using hends⟩))
  | bitHi c he hp hr _ hc hi =>
    have hp : s.phase = _ := hp
    have hi : s.idx ≠ 39#6 := hi
    have hends : ∃ c, c ≠ 0#64 ∧ PollEnds true s c := ⟨c, hc, hr⟩
    exact .inl (.inr (.inr ⟨he, by simpa [hp, hi] using hends⟩))
  | bitHiLast c he hp hr _ hc hi =>
    have hp : s.phase = _ := hp
    have hi : s.idx = 39#6 := hi
    have hends : ∃ c, c ≠ 0#64 ∧ PollEnds true s c := ⟨c, hc, hr⟩
    exact .inl (.inr (.inr ⟨he, by simpa [hp, hi] using hends⟩))
  | ackLoFail he hp hr | ackHiFail he hp hr | bitLoFail he hp hr | bitHiFail he hp hr =>
    have hp : s.phase = _ := hp
    have hends : PollEnds _ s 0#64 := hr
    refine .inl (.inr (.inr ⟨he, ?_⟩))
    simp [hp, hends]
  | assemble he hp | commit he hp | respondOk he hp | respondFail he hp =>
    have hp : s.phase = _ := hp
    exact .inl (.inr (.inr ⟨he, by simp [hp]⟩))
  | illegal _ _ hb | closedDriver _ _ _ hb | acceptFault _ _ _ _ _ hb =>
    exact absurd (busy_eq_false_iff.mp hb).symm hne
  | tick us => exact absurd (passTime_keeps State.phase (fun _ => rfl) us) hne
  | _ => exact absurd rfl hne

/-- Settles O49: a reset gives IDLE, the ports and a held `rst` leave the phase, and the rest is
`tableRow_of_stepCase`. -/
theorem phaseChangesFollowTheTable : Obligations.PhaseChangesFollowTheTable := by
  intro s t hs hne
  by_cases hreset : resets s
  · obtain ⟨strap, he⟩ := hreset
    rw [step_reset he] at hs
    obtain ⟨v, rfl⟩ := resetEvent_next hs
    exact .inr (.inl ⟨⟨strap, he⟩, rfl⟩)
  · rcases step_sameBlock_or_stepCase hs hreset with ⟨_, _, _, _, _, _, rfl⟩ | ⟨-, es, n, hc⟩
    · exact absurd rfl hne
    · exact (tableRow_of_stepCase hc hne).imp_right .inr

end Sys2Proof.Machine

/-! SUPPORT. The acquisition in the large (41_protocol_engine.md R100, R107 to R112, R123): the polling cycles over a
stream of samples against steps 5 and 6 of `Capture`, and the two steps after them against steps 8 to 11. -/

namespace Sys2Proof.Machine

open Sys2Proof.Stated

/-! ## One call of the pulse timer, from its entry to its exit -/

section Call

variable {s : State} {r : Instr × BitVec 4 × Bool} {exit : Count → State → State} {xs rest : List Bool} {c : Nat}

theorem runSamples_of_not_polling (h : polling s = false) (xs : List Bool) : runSamples xs s = some (s, xs) := by
  cases xs <;> simp [runSamples, h]

/-- A sample that ends the timer is one engine step of `runSamples`, which does the phase's exit. -/
theorem runSamples_cons_of_pollEnds {x : Bool} {k : Count} (hr : r ∈ timerRows)
    (hx : timerExit r.1 = some (r.2.2, exit)) (hrst : s.rst = false) (hp : s.phase = r.2.1) (hl : LineOk s)
    (h : PollEnds r.2.2 { s with lineIn := x } k) :
    runSamples (x :: rest) s = runSamples rest (exit k (passPoll { s with lineIn := x })) := by
  have hstep : runEvent .engine { s with lineIn := x } = .next (exit k (passPoll { s with lineIn := x })) :=
    (runEvent_timerRow (s := { s with lineIn := x }) hr hrst hp).trans
      (exec_of_pollEnds (s := { s with lineIn := x }) hx hl h)
  rw [runSamples, if_pos (polling_timerRow hr hp), hstep]

/-- The whole call: `ExpectPulse` says with which result the phase is left and at which sample (R86, R87). -/
theorem runSamples_call (hr : r ∈ timerRows) (hx : timerExit r.1 = some (r.2.2, exit)) (hrst : s.rst = false)
    (hp : s.phase = r.2.1) (hl : LineOk s) (hcnt : s.ptCnt = 0#64)
    (h : expectPulse r.2.2 s.params.maxCycles.toNat 0 xs = some (c, rest)) :
    ∃ n tm sub pin, runSamples xs s = runSamples rest (exit (BitVec.ofNat 64 c) (polledTo n tm sub pin s)) ∧
      (BitVec.ofNat 64 c = 0#64 ↔ c = 0) := by
  have h' : expectPulse r.2.2 s.params.maxCycles.toNat s.ptCnt.toNat xs = some (c, rest) := by rwa [hcnt]
  obtain ⟨n, tm, sub, pin, x, hrun, hends, hc⟩ := runSamples_of_expectPulse hr hrst hp hl h'
  have hlast := runSamples_cons_of_pollEnds (s := polledTo n tm sub pin s) (rest := rest) hr hx hrst hp hl hends
  exact ⟨_, _, _, _, hrun.trans hlast, by rw [← BitVec.toNat_inj, hc]; rfl⟩

end Call

/-! ## What the acquisition leaves -/

/-- `s` after an acquisition that left `a`, with the index, the time and the pin it ended at. -/
def acquiredAs (a : Acquired) (i : BitVec 6) (tm sub : Nat) (pin : Bool) (s : State) : State :=
  { s with
    phase := if a.txf.kind = .none then phAssemble else phCommit
    idx := i
    ptCnt := 0#64
    now := tm
    nowSub := sub
    pm := a.pm
    txf := a.txf
    lineIn := pin }

/-- The samples take the sequencer from `s` to where the contract says, and no further. -/
def Acquires (a : Acquired) (xs : List Bool) (s : State) : Prop :=
  ∃ i tm sub pin, runSamples xs s = some (acquiredAs a i tm sub pin s, a.rest)

/-- Before pair `i`: its BIT_LO, or ASSEMBLE after pair 39. -/
def beginPair (i : Nat) (s : State) : State :=
  if i < 40 then enterPoll phBitLo { s with idx := BitVec.ofNat 6 i } else enterPoll phAssemble s

theorem toNat_pairIndex {i : Nat} (hi : i < 40) : (BitVec.ofNat 6 i).toNat = i :=
  (BitVec.toNat_ofNat i 6).trans (Nat.mod_eq_of_lt (by omega))

/-- The exit of BIT_HI of pair `i` with a count stores it and begins the next pair (R110). -/
theorem bitHiExit_eq_beginPair {s : State} {i : Nat} {c : Count} (hi : i < 40) (hs : s.idx = BitVec.ofNat 6 i)
    (hc : c ≠ 0#64) : bitHiExit c s = beginPair (i + 1) { s with pm := pmSet s.pm (2 * i + 1) c } := by
  have hidx : s.idx.toNat = i := by rw [hs, toNat_pairIndex hi]
  rw [bitHiExit, if_neg hc, beginPair]
  by_cases hlast : i = 39
  · subst hlast
    rw [if_pos hs, if_neg (by decide)]
  · have hne : s.idx ≠ 39#6 := fun he => hlast (by rw [← hidx, he]; rfl)
    rw [if_neg hne, if_pos (by omega), hidx, hs, BitVec.ofNat_add]

theorem acquiredAs_beginPair (a : Acquired) (j : BitVec 6) (tm sub : Nat) (pin : Bool) (i : Nat) (s : State) :
    acquiredAs a j tm sub pin (beginPair i s) = acquiredAs a j tm sub pin s := by
  rw [beginPair]
  split <;> rfl

/-- A run that begins with steps which change only what an acquisition writes. -/
theorem Acquires.of_run {a : Acquired} {xs ys : List Bool} {s u : State} (hrun : runSamples xs s = runSamples ys u)
    (hsame : ∀ j tm sub pin, acquiredAs a j tm sub pin u = acquiredAs a j tm sub pin s) (h : Acquires a ys u) :
    Acquires a xs s := by
  obtain ⟨j, tm, sub, pin, hu⟩ := h
  exact ⟨j, tm, sub, pin, by rw [hrun, hu, hsame]⟩

section Acquisition

variable {a : Acquired} {pairs i c : Nat} {xs rest : List Bool} {s : State} {r : Instr × BitVec 4 × Bool}

theorem timeoutKind_ne_none (i : Instr) :
    (if i = .ackLo ∨ i = .ackHi then FailKind.timeoutAck else FailKind.timeoutBit) ≠ .none := by
  split <;> simp

/-- A call that times out ends the acquisition with the phase's failure and the samples left (R107 to R110). -/
theorem acquires_timeout (hr : r ∈ timerRows) (hrst : s.rst = false) (hp : s.phase = r.2.1) (hl : LineOk s)
    (hcnt : s.ptCnt = 0#64) (h : expectPulse r.2.2 s.params.maxCycles.toNat 0 xs = some (0, rest)) :
    Acquires
      { pm := s.pm
        txf :=
          { kind := if r.1 = .ackLo ∨ r.1 = .ackHi then .timeoutAck else .timeoutBit
            idx := if r.1 = .ackLo ∨ r.1 = .ackHi then 0#6 else s.idx }
        rest := rest } xs s := by
  obtain ⟨exit, hx⟩ := timerExit_timerRow hr
  obtain ⟨n, tm, sub, pin, hrun, -⟩ := runSamples_call hr hx hrst hp hl hcnt h
  refine ⟨s.idx, tm, sub, pin, ?_⟩
  rw [hrun, timerExit_zero hx, runSamples_of_not_polling rfl, acquiredAs, if_neg (timeoutKind_ne_none r.1)]
  rfl

/-! ## Step 6: the forty pairs -/

/-- After the last pair the samples are left alone. -/
theorem acquires_assemble (htxf : s.txf = Txf.clear) :
    Acquires { pm := s.pm, txf := Txf.clear, rest := xs } xs (enterPoll phAssemble s) := by
  have hend : enterPoll phAssemble s
      = acquiredAs { pm := s.pm, txf := s.txf, rest := xs } s.idx s.now s.nowSub s.lineIn s := by
    rw [acquiredAs, if_pos (by rw [htxf]; rfl)]
    rfl
  rw [htxf] at hend
  exact ⟨s.idx, s.now, s.nowSub, s.lineIn, by rw [runSamples_of_not_polling rfl, hend]; rfl⟩

/-- BIT_LO of pair `i` with a count: it is stored, and BIT_HI of the pair begins (R109). -/
theorem runSamples_bitLo (hi : i < 40) (hidx : s.idx = BitVec.ofNat 6 i) (hrst : s.rst = false) (hp : s.phase = 7#4)
    (hl : LineOk s) (hcnt : s.ptCnt = 0#64)
    (h : expectPulse false s.params.maxCycles.toNat 0 xs = some (c, rest)) (hc : c ≠ 0) :
    ∃ n tm sub pin, runSamples xs s = runSamples rest
      (enterPoll phBitHi { polledTo n tm sub pin s with pm := pmSet s.pm (2 * i) (BitVec.ofNat 64 c) }) := by
  obtain ⟨n, tm, sub, pin, hrun, hzero⟩ :=
    runSamples_call (r := (.bitLo, 7#4, false)) (by decide) rfl hrst hp hl hcnt h
  have hentry : (polledTo n tm sub pin s).idx.toNat = i := (congrArg BitVec.toNat hidx).trans (toNat_pairIndex hi)
  rw [bitLoExit, if_neg (mt hzero.mp hc), hentry] at hrun
  exact ⟨n, tm, sub, pin, hrun⟩

/-- BIT_HI of pair `i` with a count: it is stored, and the next pair begins (R110). -/
theorem runSamples_bitHi (hi : i < 40) (hidx : s.idx = BitVec.ofNat 6 i) (hrst : s.rst = false) (hp : s.phase = 8#4)
    (hl : LineOk s) (hcnt : s.ptCnt = 0#64)
    (h : expectPulse true s.params.maxCycles.toNat 0 xs = some (c, rest)) (hc : c ≠ 0) :
    ∃ n tm sub pin, runSamples xs s = runSamples rest
      (beginPair (i + 1) { polledTo n tm sub pin s with pm := pmSet s.pm (2 * i + 1) (BitVec.ofNat 64 c) }) := by
  obtain ⟨n, tm, sub, pin, hrun, hzero⟩ :=
    runSamples_call (r := (.bitHi, 8#4, true)) (by decide) rfl hrst hp hl hcnt h
  rw [bitHiExit_eq_beginPair (s := polledTo n tm sub pin s) hi hidx (mt hzero.mp hc)] at hrun
  exact ⟨n, tm, sub, pin, hrun⟩

/-- Induction on the pairs still to come; each is a call in BIT_LO and one in BIT_HI (R100 step 6, R109, R110). -/
theorem acquires_beginPair (hi : i + pairs = 40) (hrst : s.rst = false) (hl : LineOk s) (htxf : s.txf = Txf.clear)
    (h : acquireBits s.params.maxCycles.toNat pairs i s.pm xs = some a) : Acquires a xs (beginPair i s) := by
  induction pairs generalizing i xs s with
  | zero =>
    obtain rfl := Option.some.inj h
    rw [beginPair, if_neg (by omega)]
    exact acquires_assemble htxf
  | succ pairs ih =>
    have hi40 : i < 40 := by omega
    rw [beginPair, if_pos hi40]
    rw [acquireBits] at h
    split at h
    · cases h
    next lo ys hlo =>
    split_ifs at h with hlo0
    · obtain rfl := Option.some.inj h
      subst hlo0
      exact acquires_timeout (r := (.bitLo, 7#4, false)) (by decide) hrst rfl hl rfl hlo
    obtain ⟨n, tm, sub, pin, hrun⟩ := runSamples_bitLo (s := enterPoll phBitLo { s with idx := BitVec.ofNat 6 i })
      hi40 rfl hrst rfl hl rfl hlo hlo0
    refine Acquires.of_run hrun (fun _ _ _ _ => rfl) ?_
    split at h
    · cases h
    next hi zs hhi =>
    split_ifs at h with hhi0
    · obtain rfl := Option.some.inj h
      subst hhi0
      exact acquires_timeout (r := (.bitHi, 8#4, true)) (by decide) hrst rfl hl rfl hhi
    obtain ⟨n', tm', sub', pin', hrun'⟩ := runSamples_bitHi (s := enterPoll phBitHi
      { polledTo n tm sub pin s with idx := BitVec.ofNat 6 i, pm := pmSet s.pm (2 * i) (BitVec.ofNat 64 lo) })
      hi40 rfl hrst rfl hl rfl hhi hhi0
    exact Acquires.of_run hrun' (fun _ _ _ _ => acquiredAs_beginPair ..) (ih (by omega) hrst hl htxf h)

/-! ## Steps 5 and 6 -/

/-- Steps 5 and 6: the two acknowledgements, then the pairs from the first on (R100, R107, R108). -/
theorem acquires_ackLo (hrst : s.rst = false) (hp : s.phase = 5#4) (hl : LineOk s) (hcnt : s.ptCnt = 0#64)
    (hpm : s.pm = pmZero) (htxf : s.txf = Txf.clear) (h : acquire s.params.maxCycles.toNat xs = some a) :
    Acquires a xs s := by
  rw [acquire, ← hpm] at h
  split at h
  · cases h
  next lo ys hlo =>
  split_ifs at h with hlo0
  · obtain rfl := Option.some.inj h
    subst hlo0
    exact acquires_timeout (r := (.ackLo, 5#4, false)) (by decide) hrst hp hl hcnt hlo
  obtain ⟨n, tm, sub, pin, hrun, hzero⟩ :=
    runSamples_call (r := (.ackLo, 5#4, false)) (by decide) rfl hrst hp hl hcnt hlo
  rw [ackLoExit, if_neg (mt hzero.mp hlo0)] at hrun
  refine Acquires.of_run hrun (fun _ _ _ _ => rfl) ?_
  split at h
  · cases h
  next hi zs hhi =>
  split_ifs at h with hhi0
  · obtain rfl := Option.some.inj h
    subst hhi0
    exact acquires_timeout (r := (.ackHi, 6#4, true)) (by decide) hrst rfl hl rfl hhi
  obtain ⟨n', tm', sub', pin', hrun', hzero'⟩ := runSamples_call (r := (.ackHi, 6#4, true))
    (s := enterPoll phAckHi (polledTo n tm sub pin s)) (by decide) rfl hrst rfl hl rfl hhi
  rw [ackHiExit, if_neg (mt hzero'.mp hhi0)] at hrun'
  refine Acquires.of_run hrun' (fun _ _ _ _ => rfl) ?_
  exact acquires_beginPair (s := polledTo n' tm' sub' pin' (enterPoll phAckHi (polledTo n tm sub pin s)))
    (by decide : 0 + 40 = 40) hrst hl htxf h

end Acquisition

/-- Settles O58: what `acquiredAs` changes is what `acquires_ackLo` leaves open. -/
theorem acquisitionMeetsContract : Obligations.AcquisitionMeetsContract := by
  intro s xs a hrst hp hl hcnt hpm htxf h
  obtain ⟨i, tm, sub, pin, hrun⟩ := acquires_ackLo hrst hp hl hcnt hpm htxf h
  exact ⟨_, hrun, rfl, rfl, rfl, rfl, rfl, rfl, rfl, rfl, rfl, rfl, rfl⟩

/-! ## Steps 8 to 11 -/

section Finish

variable {s : State} {a : Acquired}

/-- An engine step runs the phase that `PHASE` holds (R65). -/
theorem runEvent_engine {i : Instr} (hrst : s.rst = false) (hp : encode i = .phase s.phase) :
    runEvent .engine s = exec i s := by
  have hd : decode (.phase s.phase) = .ok i := decode_eq_ok_iff.mpr hp
  simp only [runEvent, fetch_running hrst, issuedWord, hd]

/-- COMMIT alone, when the acquisition failed (R112). -/
theorem finishCapture_commit (hrst : s.rst = false) (hp : s.phase = phCommit) : finishCapture s = exec .commit s := by
  rw [finishCapture, if_neg (by rw [hp]; decide), runEvent_engine (i := .commit) hrst (by rw [hp]; rfl)]

/-- ASSEMBLE and COMMIT, when it did not (R112, R133). -/
theorem finishCapture_assemble (hrst : s.rst = false) (hp : s.phase = phAssemble) :
    finishCapture s = exec .commit
      { s with
        rf := assembled s
        txf := if checksumValid (assembled s) then s.txf else { kind := .checksumMismatch, idx := 0#6 }
        phase := phCommit } := by
  have hasm : runEvent .engine s = execAssemble s := runEvent_engine (i := .assemble) hrst (by rw [hp]; rfl)
  rw [finishCapture, if_pos hp, hasm]
  exact runEvent_engine (i := .commit) hrst rfl

/-- The reading COMMIT stores of a frame and a failure (R112). -/
def committed (ts : Nat) (f : Frame) (x : Txf) : CachedReading :=
  { tsv := true, ts := ts, ok := x.kind == .none, frame := f.toF40, fkind := x.kind, fidx := x.idx }

/-- The contract's reading of a complete acquisition is that of ASSEMBLE's frame and check (R133). -/
theorem captured_of_ok (hk : a.txf.kind = .none) (ts : Nat) :
    captured a ts = committed ts (pack (frameBit a.pm))
      (if checksumValid (pack (frameBit a.pm)) then a.txf else { kind := .checksumMismatch, idx := 0#6 }) := by
  cases hv : checksumValid (pack (frameBit a.pm)) <;> simp [captured, committed, hk, hv]

/-- The contract's reading of a failed acquisition is that of the failure, with no frame (R123). -/
theorem captured_of_failed (hk : a.txf.kind ≠ .none) (ts : Nat) :
    captured a ts = committed ts Frame.zero a.txf := by
  simp [captured, committed, hk]

end Finish

/-- Settles O59: after a failure the frame is the cleared one; otherwise ASSEMBLE's frame and checksum are the
contract's. -/
theorem captureCommitsTheContractsReading : Obligations.CaptureCommitsTheContractsReading := by
  intro s xs a hrst hp hl hcnt hpm htxf hrf h
  obtain ⟨i, tm, sub, pin, hrun⟩ := acquires_ackLo hrst hp hl hcnt hpm htxf h
  by_cases hk : a.txf.kind = .none
  · refine ⟨_, _, hrun, finishCapture_assemble hrst (if_pos hk), rfl, ?_⟩
    exact (captured_of_ok hk tm).symm
  · refine ⟨_, _, hrun, finishCapture_commit hrst (if_neg hk), rfl, ?_⟩
    rw [captured_of_failed hk, ← hrf]
    rfl

end Sys2Proof.Machine

/-! SUPPORT. How long the sampling lasts (40_line_and_timer.md R90, R92; 41_protocol_engine.md R119): every polling
cycle uses up one of at most `82 · MAX_CYCLES`. -/

namespace Sys2Proof.Machine

open Sys2Proof.Stated

variable {s t : State}

/-! ## The measure -/

/-- The calls of the pulse timer that a transaction has still to finish, the one in progress included (R100, R119). -/
def callsLeft (s : State) : Nat :=
  if s.phase = phAckLo then 82
  else if s.phase = phAckHi then 81
  else if s.phase = phBitLo then 80 - 2 * s.idx.toNat
  else if s.phase = phBitHi then 79 - 2 * s.idx.toNat
  else 0

/-- The samples those calls can take: `MAX_CYCLES` each, less those the call in progress has counted (R90, R92). -/
def samplesLeft (s : State) : Nat := callsLeft s * s.params.maxCycles.toNat - s.ptCnt.toNat

theorem callsLeft_le (s : State) : callsLeft s ≤ 82 := by
  unfold callsLeft
  split_ifs <;> omega

theorem callsLeft_ackLo (hp : s.phase = phAckLo) : callsLeft s = 82 := by simp [callsLeft, hp]

theorem callsLeft_ackHi (hp : s.phase = phAckHi) : callsLeft s = 81 := by simp [callsLeft, hp]

theorem callsLeft_bitLo (hp : s.phase = phBitLo) : callsLeft s = 80 - 2 * s.idx.toNat := by simp [callsLeft, hp]

theorem callsLeft_bitHi (hp : s.phase = phBitHi) : callsLeft s = 79 - 2 * s.idx.toNat := by simp [callsLeft, hp]

theorem one_le_callsLeft (hp : polling s = true) (hi : s.idx.toNat ≤ 39) : 1 ≤ callsLeft s := by
  have hphase : s.phase = phAckLo ∨ s.phase = phAckHi ∨ s.phase = phBitLo ∨ s.phase = phBitHi := by
    simpa [polling, or_assoc] using hp
  rcases hphase with h | h | h | h
  · rw [callsLeft_ackLo h]
    decide
  · rw [callsLeft_ackHi h]
    decide
  · rw [callsLeft_bitLo h]
    omega
  · rw [callsLeft_bitHi h]
    omega

theorem samplesLeft_le (s : State) : samplesLeft s ≤ 82 * s.params.maxCycles.toNat :=
  (Nat.sub_le _ _).trans (Nat.mul_le_mul_right _ (callsLeft_le s))

/-! ## One polling cycle -/

/-- While `rst` is held no phase polls (R210). -/
theorem RunInv.running_of_polling (h : RunInv s) (hp : polling s = true) : s.rst = false := by
  by_contra hr
  have hheld : s = resetBlock s.variant s := h.held_reset (Bool.eq_true_of_not_eq_false hr)
  rw [hheld] at hp
  cases hp

/-- A sample that counts uses up one of the call in progress. -/
theorem samplesLeft_count (hcalls : 1 ≤ callsLeft s) (hlt : s.ptCnt.toNat + 1 < s.params.maxCycles.toNat) :
    1 ≤ samplesLeft { passPoll s with ptCnt := s.ptCnt + 1#64 } ∧
      samplesLeft { passPoll s with ptCnt := s.ptCnt + 1#64 } < samplesLeft s := by
  have hsucc : (s.ptCnt + 1#64).toNat = s.ptCnt.toNat + 1 := toNat_ptCnt_succ (level := s.lineIn) ⟨rfl, hlt⟩
  have hcall : s.params.maxCycles.toNat ≤ callsLeft s * s.params.maxCycles.toNat := Nat.le_mul_of_pos_left _ hcalls
  have ht : samplesLeft { passPoll s with ptCnt := s.ptCnt + 1#64 }
      = callsLeft s * s.params.maxCycles.toNat - (s.ptCnt.toNat + 1) := by rw [← hsucc]; rfl
  rw [ht, samplesLeft]
  omega

/-- A sample that ends a call with a count uses up what that call had left, and one more. -/
theorem samplesLeft_nextCall (hcalls : callsLeft t + 1 = callsLeft s) (htp : polling t = true)
    (hti : t.idx.toNat ≤ 39) (hM : t.params = s.params) (hlt : s.ptCnt.toNat < s.params.maxCycles.toNat)
    (hcnt : t.ptCnt = 0#64) : 1 ≤ samplesLeft t ∧ samplesLeft t < samplesLeft s := by
  have hcall : s.params.maxCycles.toNat ≤ callsLeft t * s.params.maxCycles.toNat :=
    Nat.le_mul_of_pos_left _ (one_le_callsLeft htp hti)
  have hs : samplesLeft s = callsLeft t * s.params.maxCycles.toNat + s.params.maxCycles.toNat - s.ptCnt.toNat := by
    rw [samplesLeft, ← hcalls, Nat.succ_mul]
  have ht : samplesLeft t = callsLeft t * s.params.maxCycles.toNat := by simp [samplesLeft, hM, hcnt]
  omega

/-- A polling cycle with a line that works leaves the pulse-timer phases or has fewer samples left. -/
theorem StepCase.samplesLeft_lt (h : RunInv s) (hp : polling s = true) (hl : lineFails s = false)
    (hc : StepCase .engine s t) : polling t = false ∨ (1 ≤ samplesLeft t ∧ samplesLeft t < samplesLeft s) := by
  have hidx := h.idx_le
  have hti : t.idx.toNat ≤ 39 := (h.stepCase (h.running_of_polling hp) hc).idx_le
  have hphase := polling_iff.mp hp
  have counted : ∀ {level c}, PollResult level s c → c ≠ 0#64 → s.ptCnt.toNat < s.params.maxCycles.toNat := by
    intro level c hr hne
    have hlt := h.pollResult_lt hr hne
    rwa [(hr.eq_of_ne_zero hne).2] at hlt
  cases hc with
  | ackLoFail | ackHiFail | bitLoFail | bitHiFail | bitHiLast => exact .inl rfl
  | count _ _ hm => exact .inr (samplesLeft_count (one_le_callsLeft hp hidx) hm)
  | ackLo c _ hp hr _ hne =>
    have hcalls : 81 + 1 = callsLeft s := (callsLeft_ackLo hp).symm
    exact .inr (samplesLeft_nextCall hcalls rfl hti rfl (counted hr hne) rfl)
  | ackHi c _ hp hr _ hne =>
    have hcalls : 80 + 1 = callsLeft s := (callsLeft_ackHi hp).symm
    exact .inr (samplesLeft_nextCall hcalls rfl hti rfl (counted hr hne) rfl)
  | bitLo c _ hp hr _ hne =>
    have hcalls : 79 - 2 * s.idx.toNat + 1 = callsLeft s := by
      rw [callsLeft_bitLo hp]
      omega
    exact .inr (samplesLeft_nextCall hcalls rfl hti rfl (counted hr hne) rfl)
  | bitHi c _ hp hr _ hne hi =>
    have hsucc : (s.idx + 1#6).toNat = s.idx.toNat + 1 := by
      rw [BitVec.toNat_add]
      exact Nat.mod_eq_of_lt (by simp; omega)
    have hti : (s.idx + 1#6).toNat ≤ 39 := hti
    have hcalls : 80 - 2 * (s.idx + 1#6).toNat + 1 = callsLeft s := by
      rw [callsLeft_bitHi hp]
      omega
    exact .inr (samplesLeft_nextCall hcalls rfl hti rfl (counted hr hne) rfl)
  | engineFault _ _ hf => exact absurd (hl.symm.trans hf) (by decide)
  | wait _ hf => omega
  | stab _ hf | wakeLo _ hf | wakeHi _ hf | release _ hf | assemble _ hf | commit _ hf | respondOk _ hf
  | respondFail _ hf => exact absurd hphase (by rw [hf]; decide)
  | _ => contradiction

/-! ## The whole sampling -/

/-- In a state of a run the engine has a step, and it is one of the step cases. -/
theorem RunInv.engine_step (h : RunInv s) (hr : s.rst = false) :
    ∃ t, runEvent .engine s = .next t ∧ StepCase .engine s t := by
  obtain ⟨i, hd⟩ := exists_decode_of_wf (w := .phase s.phase) (decide_eq_true h.phase_legal)
  obtain ⟨t, ht⟩ := exec_next i s
  exact ⟨t, (runEvent_engine hr (decode_eq_ok_iff.mp hd)).trans ht, stepCase_engine hd ht⟩

/-- Induction on the samples: each is a polling cycle, after which fewer are needed. -/
theorem runSamples_leaves {xs : List Bool} (h : RunInv s) (hl : LineOk s)
    (hlen : polling s = true → 1 ≤ xs.length ∧ samplesLeft s ≤ xs.length) :
    ∃ t rest, runSamples xs s = some (t, rest) ∧ polling t = false := by
  induction xs generalizing s with
  | nil =>
    have hp : polling s = false := Bool.eq_false_iff.mpr fun hp => absurd (hlen hp).1 (by decide)
    exact ⟨s, [], runSamples_of_not_polling hp [], hp⟩
  | cons x xs ih =>
    cases hp : polling s with
    | false => exact ⟨s, x :: xs, runSamples_of_not_polling hp (x :: xs), hp⟩
    | true =>
      have hin : RunInv { s with lineIn := x } := h.portCase (.line x rfl)
      obtain ⟨t, hstep, hc⟩ := hin.engine_step (h.running_of_polling hp)
      have hrun : runSamples (x :: xs) s = runSamples xs t := by rw [runSamples, if_pos hp, hstep]
      have ht : RunInv t := hin.stepCase (h.running_of_polling hp) hc
      obtain ⟨-, hfault, -, -⟩ := hc.ports_unchanged
      obtain ⟨-, hparams⟩ := hc.configuration_unchanged
      have hlt : LineOk t := by rwa [LineOk, hfault, hparams]
      obtain ⟨-, hlen⟩ := hlen hp
      rw [hrun]
      refine ih ht hlt fun htp => ?_
      rcases hc.samplesLeft_lt hin hp (lineFails_of_lineOk hl) with hout | ⟨hone, hless⟩
      · exact absurd (hout.symm.trans htp) (by decide)
      · have hs : samplesLeft { s with lineIn := x } = samplesLeft s := rfl
        rw [List.length_cons] at hlen
        omega

/-- Settles O60: no state has more than `82 · MAX_CYCLES` samples left. -/
theorem samplingEndsWithinBound : Obligations.SamplingEndsWithinBound :=
  fun s _ h hl hone hlen => runSamples_leaves h hl fun _ => ⟨hone, (samplesLeft_le s).trans hlen⟩

end Sys2Proof.Machine

/-! SUPPORT. Frame assembly (42_frame_assembly.md R130 to R133): where packing puts each of the forty bits, and the
checksum as arithmetic. -/

namespace Sys2Proof.Machine

/-! ## Packing -/

/-- R131: the weights 128 to 1 are eight binary digits, `Bit(8j)` the most significant. -/
theorem packByte_eq_digits (bits : Nat → Bool) (j : Nat) :
    packByte bits j = BitVec.ofNat 8
      (Nat.bit (bits (8 * j + 7)) (Nat.bit (bits (8 * j + 6)) (Nat.bit (bits (8 * j + 5)) (Nat.bit (bits (8 * j + 4))
        (Nat.bit (bits (8 * j + 3)) (Nat.bit (bits (8 * j + 2)) (Nat.bit (bits (8 * j + 1))
          (Nat.bit (bits (8 * j)) 0)))))))) := by
  simp only [packByte, Nat.bit_val]
  congr 1
  ring

/-- R131: bit `7 − k` of byte `j` is the bit `8j + k`. -/
theorem getLsbD_packByte (bits : Nat → Bool) (j : Nat) {k : Nat} (hk : k < 8) :
    (packByte bits j).getLsbD (7 - k) = bits (8 * j + k) := by
  have hin : 7 - k < 8 := by omega
  rw [packByte_eq_digits, BitVec.getLsbD_ofNat, decide_eq_true hin, Bool.true_and]
  interval_cases k <;> simp only [Nat.reduceSub, Nat.testBit_bit_succ, Nat.testBit_bit_zero, Nat.add_zero]

/-- R41: the bytes of the packed frame are the bytes of its `F40`, the first at the top. -/
theorem extractLsb'_toF40_pack (bits : Nat → Bool) {j : Nat} (hj : j < 5) :
    (pack bits).toF40.extractLsb' (8 * (4 - j)) 8 = packByte bits j := by
  have h := frameOfF40_toF40 (pack bits)
  interval_cases j
  · exact congrArg Frame.b0 h
  · exact congrArg Frame.b1 h
  · exact congrArg Frame.b2 h
  · exact congrArg Frame.b3 h
  · exact congrArg Frame.b4 h

/-- R131 as one number: bit `39 − i` of `F40` is the bit `i`, here as bit `k` of byte `j`. -/
theorem getLsbD_toF40_pack (bits : Nat → Bool) {i : Nat} (hi : i < 40) :
    (pack bits).toF40.getLsbD (39 - i) = bits i := by
  obtain ⟨j, k, hj, hk, rfl⟩ : ∃ j k, j < 5 ∧ k < 8 ∧ 8 * j + k = i :=
    ⟨i / 8, i % 8, by omega, Nat.mod_lt i (by decide), Nat.div_add_mod i 8⟩
  have hpos : 39 - (8 * j + k) = 8 * (4 - j) + (7 - k) := by omega
  have hin : 7 - k < 8 := by omega
  rw [← getLsbD_packByte bits j hk, ← extractLsb'_toF40_pack bits hj, BitVec.getLsbD_extractLsb', hpos,
    decide_eq_true hin, Bool.true_and]

/-! ## The checksum -/

/-- R132 as an equation of numbers. -/
theorem checksumValid_iff (f : Frame) :
    checksumValid f = true ↔ f.b4.toNat = (f.b0.toNat + f.b1.toNat + f.b2.toNat + f.b3.toNat) % 256 :=
  beq_iff_eq

/-- Reduction commutes with addition (R132, R134). -/
theorem toNat_byteSum (a b c d : Byte) :
    (a + b + c + d).toNat = (a.toNat + b.toNat + c.toNat + d.toNat) % 256 := by
  simp only [BitVec.toNat_add, Nat.reducePow, Nat.mod_add_mod]

/-! ## The obligations -/

/-- Settles O26: the frame is the packed bit decisions, each bit at its place. -/
theorem assembleDecidesPacksAndChecks : Obligations.AssembleDecidesPacksAndChecks := by
  refine fun s => ⟨assembled s, fun i hi => getLsbD_toF40_pack (frameBit s.pm) hi, ?_⟩
  simp only [exec, execAssemble, checksumValid_iff]

/-- Settles O27: an 8-bit sum is the unbounded sum reduced mod 256. -/
theorem checksumEqualsCarryDroppingSum : Obligations.ChecksumEqualsCarryDroppingSum := fun f => by
  rw [checksumValid_iff, ← toNat_byteSum, BitVec.toNat_inj]

end Sys2Proof.Machine

/-! SUPPORT. The frame decoder (43_frame_decoder.md R140 to R147): what each variant reads from the bytes, and the
temperature as a signed number. -/

namespace Sys2Proof.Machine

open Sys2Proof.Stated

variable {v : SensorVariant}

/-! ## The results of each variant -/

/-- Ten times a byte fits the 16 bits of a result (R141, R142). -/
theorem toNat_ofNat_byte_mul_ten (b : Byte) : (BitVec.ofNat 16 (b.toNat * 10)).toNat = b.toNat * 10 := by
  have hb := b.isLt
  rw [BitVec.toNat_ofNat, Nat.mod_eq_of_lt (by omega)]

theorem toNat_humX10_type11 (f : Frame) : (humX10 .type11 f).toNat = f.b0.toNat * 10 :=
  toNat_ofNat_byte_mul_ten f.b0

theorem toNat_tempMag_type11 (f : Frame) : (tempMag .type11 f).toNat = f.b2.toNat * 10 :=
  toNat_ofNat_byte_mul_ten f.b2

@[simp] theorem tempNeg_type11 (f : Frame) : tempNeg .type11 f = false := rfl

/-- R143: the two variants with a fraction read the same two bytes. -/
theorem humX10_of_signed (hv : v = .type21 ∨ v = .type22) (f : Frame) : humX10 v f = f.b0 ++ f.b1 := by
  rcases hv with rfl | rfl <;> rfl

/-- R144: the magnitude leaves out the sign bit. -/
theorem tempMag_of_signed (hv : v = .type21 ∨ v = .type22) (f : Frame) :
    tempMag v f = (f.b2 &&& 0x7F#8) ++ f.b3 := by
  rcases hv with rfl | rfl <;> rfl

/-- R144: the sign is bit 7 of `b[2]`. -/
theorem tempNeg_of_signed (hv : v = .type21 ∨ v = .type22) (f : Frame) : tempNeg v f = f.b2.msb := by
  rcases hv with rfl | rfl <;> rfl

theorem toNat_tempMag_of_signed (hv : v = .type21 ∨ v = .type22) (f : Frame) :
    (tempMag v f).toNat = f.b2.toNat % 128 * 256 + f.b3.toNat := by
  rw [tempMag_of_signed hv, toNat_append_bytes, toNat_and_7F]

/-! ## The temperature as a signed number -/

/-- R145: `TempX10` is the signed magnitude, for a magnitude is below 0x8000. -/
theorem toInt_tempX10 (v : SensorVariant) (f : Frame) :
    (tempX10 v f).toInt = (if tempNeg v f = true then -1 else 1) * ((tempMag v f).toNat : Int) := by
  have hlt := tempMag_lt v f
  have hmag : (tempMag v f).toInt = (tempMag v f).toNat := BitVec.toInt_eq_toNat_of_lt (by omega)
  unfold tempX10
  split_ifs
  · have hmin : tempMag v f ≠ BitVec.intMin 16 := fun h => by simp [h] at hlt
    rw [neg16_eq, BitVec.zero_sub, BitVec.toInt_neg_of_ne_intMin hmin, hmag, neg_one_mul]
  · rw [hmag, one_mul]

theorem toInt_tempX10_type11 (f : Frame) : (tempX10 .type11 f).toInt = (f.b2.toNat * 10 : Int) := by
  simp [toInt_tempX10, toNat_tempMag_type11]

/-- Two temperatures that look alike but differ in sign are both zero (R146). -/
theorem tempX10_eq_zero_of_tempNeg_ne {f g : Frame} (h : tempX10 v f = tempX10 v g)
    (hne : tempNeg v f ≠ tempNeg v g) : tempX10 v f = 0#16 := by
  have hf := toInt_tempX10 v f
  have hg := toInt_tempX10 v g
  rw [← h, Bool.eq_not.mpr hne.symm] at hg
  apply BitVec.eq_of_toInt_eq
  rw [BitVec.toInt_zero]
  cases hs : tempNeg v f with
  | false | true =>
    simp only [hs, Bool.not_true, Bool.not_false, if_true, Bool.false_eq_true, if_false] at hf hg
    omega

/-! ## A frame with its sign bit set or cleared -/

theorem toNat_withSign_b2 (f : Frame) (n : Bool) : (withSign f n).b2.toNat = n.toNat * 128 + f.b2.toNat % 128 := by
  show (BitVec.ofBool n ++ f.b2.extractLsb' 0 7).toNat = _
  rw [BitVec.toNat_append, ← Nat.shiftLeft_add_eq_or_of_lt (BitVec.isLt _), Nat.shiftLeft_eq,
    BitVec.toNat_ofBool, BitVec.extractLsb'_toNat, Nat.shiftRight_zero]

@[simp] theorem humX10_withSign (v : SensorVariant) (f : Frame) (n : Bool) :
    humX10 v (withSign f n) = humX10 v f := by
  cases v <;> rfl

theorem tempNeg_withSign (hv : v = .type21 ∨ v = .type22) (f : Frame) (n : Bool) :
    tempNeg v (withSign f n) = n := by
  rw [tempNeg_of_signed hv, withSign, BitVec.msb_append]
  cases n <;> rfl

/-- The magnitude of a signed variant does not depend on the sign bit (R144). -/
theorem toNat_tempMag_withSign (hv : v = .type21 ∨ v = .type22) (f : Frame) (n : Bool) :
    (tempMag v (withSign f n)).toNat = (tempMag v f).toNat := by
  rw [toNat_tempMag_of_signed hv, toNat_tempMag_of_signed hv, toNat_withSign_b2, Nat.mul_add_mod_self_right,
    Nat.mod_mod]
  rfl

/-! ## The obligations -/

/-- Settles O31: the numbers of each variant's bytes, with `toInt_tempX10` for the temperature. -/
theorem conversionPerVariant : Obligations.ConversionPerVariant := by
  refine fun f => ⟨toNat_humX10_type11 f, toInt_tempX10_type11 f, rfl, toNat_tempMag_type11 f, fun v hv => ?_⟩
  have hneg : tempNeg v f = decide (128 ≤ f.b2.toNat) := by
    rw [tempNeg_of_signed hv, BitVec.msb_eq_decide]
  refine ⟨?_, hneg, toNat_tempMag_of_signed hv f, ?_, tempX10_ne_min v f⟩
  · rw [humX10_of_signed hv, toNat_append_bytes]
  · simp [toInt_tempX10, hneg, toNat_tempMag_of_signed hv]

/-- Settles O32: for a signed variant the bit is the sign and the magnitude stays; for Type11 it weighs 128. -/
theorem signBitNegatesTheTemperature : Obligations.SignBitNegatesTheTemperature := by
  refine fun f => ⟨fun v hv => ⟨?_, by rw [humX10_withSign, humX10_withSign]⟩, ?_⟩
  · simp [toInt_tempX10, tempNeg_withSign hv, toNat_tempMag_withSign hv]
  · simp only [toInt_tempX10_type11, toNat_withSign_b2, Bool.toNat_true, Bool.toNat_false]
    omega

/-- Settles O33: no formula of a variant names a byte it ignores, and Type21 and Type22 have the same formulas. -/
theorem ignoredBytesDoNotMatter : Obligations.IgnoredBytesDoNotMatter := by
  refine fun f x y z => ⟨fun v => ?_, ⟨rfl, rfl⟩, rfl, rfl, rfl⟩
  cases v <;> exact ⟨rfl, rfl, rfl⟩

/-- Settles O35: the magnitude is 0, which every rendering shows as its sign and zeros; and a number that is its own
negative is 0. -/
theorem negativeZeroKeepsItsSign : Obligations.NegativeZeroKeepsItsSign := by
  refine ⟨fun r f v hv h2 h3 => ?_, fun _ _ _ => tempX10_eq_zero_of_tempNeg_ne⟩
  have hneg : tempNeg v f = true := by
    rw [tempNeg_of_signed hv, h2]
    rfl
  have hx : tempX10 v f = 0#16 := by
    rw [tempX10, if_pos hneg, tempMag_of_signed hv, h2, h3]
    rfl
  have hview : f32View r true true 0#16 = 0x80000000#32 := by
    rw [f32View, if_pos rfl, renderedMagnitude_zero]
    rfl
  refine ⟨hx, hneg, ?_⟩
  rw [hx, hneg]
  exact hview

end Sys2Proof.Machine

/-! SUPPORT. The return of a read command (44_read_commands.md R160): what RESPOND delivers from a reading and from a
failed attempt. -/

namespace Sys2Proof.Machine

open Sys2Proof.Stated

variable {s : State}

/-- R74: the outcome a failure kind becomes has the kind's own number. -/
@[simp] theorem resultCode_resultOfFail (k : FailKind) : resultCode (resultOfFail k) = failCode k := by
  cases k <;> rfl

theorem exec_respond_of_ok (h : s.cr.ok = true) : exec .respond s = .next
    { s with result := .ok, index := 0#6, resHum := respondHum s, resTemp := respondTemp s, phase := phIdle } :=
  congrArg Host.Outcome.next (if_pos h)

/-- A failed attempt is delivered as a completion that keeps `HIT` and reports the attempt's index (R160, R187). -/
theorem exec_respond_of_failed (h : s.cr.ok = false) : exec .respond s = .next
    { ended (resultOfFail s.cr.fkind) s with index := s.cr.fidx, hit := s.hit } :=
  congrArg Host.Outcome.next (if_neg (Bool.eq_false_iff.mp h))

/-- Settles O29: `respondHum` and `respondTemp` are the selected fields, and a failure's outcome is `resultOfFail` of its
kind. -/
theorem respondDeliversTheOutcome : Obligations.RespondDeliversTheOutcome :=
  ⟨fun _ h => exec_respond_of_ok h,
    fun s h => ⟨resultOfFail s.cr.fkind, resultCode_resultOfFail s.cr.fkind, exec_respond_of_failed h⟩⟩

end Sys2Proof.Machine

/-! SUPPORT. The exceptions (60_exceptions.md): the line fault and the steps it replaces (R187), the closed driver
(R188), the illegal opcode (R189), the write while busy (R190), the failure reported again (R185), and that nothing
stops the machine (R191, R192). -/

namespace Sys2Proof.Machine

open Sys2Proof.Stated

variable {e : Event} {i : Instr} {s t : State} {op : Byte}

/-! ## The line fault -/

section LineFault

theorem lineStep_of_lineBad (h : LineBad s) (done : State) : lineStep s done = ioError s :=
  if_pos (lineFails_iff.mpr h)

/-- The exit step of a hold phase that ends with a line primitive, the line failing (R187). -/
theorem hold_lineStep_of_lineBad {d : Nat} (h : LineBad s) (hd : s.tEnter + d ≤ s.now) (done : State → State) :
    hold d (fun s => lineStep s (done s)) s = ioError s := by
  rcases hold_cases d (fun s => lineStep s (done s)) s with ⟨hlt, -⟩ | ⟨-, he⟩
  · omega
  · rw [he, lineStep_of_lineBad h]

/-- Each kind of step that issues a line primitive is `lineStep`, which a fault turns into IoError (R187). -/
theorem exec_of_lineBad (h : LineBad s) (hi : IssuesPrimitive i s) : exec i s = .next (faulted s) := by
  rcases hi with ⟨op, hrow, hp, hc, hmiss⟩ | ⟨rfl, hd⟩ | ⟨rfl, hd⟩ | ⟨rfl, hd⟩ | ⟨p, l, hrow⟩
  · rw [exec_commandRow hrow, command_idle hp, if_neg (by simp [hc]), if_neg hmiss, if_pos h]
  · exact congrArg Host.Outcome.next (hold_lineStep_of_lineBad h hd fun s => enterHold phWakeLo (setLevel false s))
  · exact congrArg Host.Outcome.next (hold_lineStep_of_lineBad h hd fun s => enterHold phWakeHi (setLevel true s))
  · exact congrArg Host.Outcome.next
      (hold_lineStep_of_lineBad h hd fun s => enterHold phRelease (setDirection .input s))
  · obtain ⟨exit, hx⟩ := timerExit_timerRow hrow
    rw [exec_timer hx, pollStep, lineStep_of_lineBad h]
    rfl

/-- The port `line_fault` at a given level. -/
def setLineFault (b : Bool) (s : State) : State := { s with lineFault := b }

variable (b : Bool)

/-- A write while busy, ClosedDriver and a hit come before the line is looked at (R101). -/
theorem command_setLineFault (h : s.phase = 0#4 → s.closed = false → Hits op s) :
    command op (setLineFault b s) = setLineFault b (command op s) := by
  by_cases hp : s.phase = 0#4
  · rw [command_idle hp, command_idle (s := setLineFault b s) hp]
    by_cases hc : s.closed = true
    · rw [if_pos hc]
      exact if_pos hc
    · have hh : Hits op s := h hp (Bool.eq_false_iff.mpr hc)
      rw [if_neg hc, if_pos hh]
      exact (if_neg hc).trans (if_pos hh)
  · have hb : busy s = true := busy_eq_true_iff.mpr hp
    rw [command, command, if_pos hb]
    exact if_pos hb

theorem opcodeOf_mem_commandRows (h : i.isCommand = true) : (i, opcodeOf i) ∈ commandRows := by
  cases i with
  | cap | capF | rdt | rdh | rdb => decide
  | _ => cases h

theorem exec_command_setLineFault (hi : i.isCommand = true) (h : ¬ IssuesPrimitive i s) :
    exec i (setLineFault b s) = onNext (setLineFault b) (exec i s) := by
  have hmiss : s.phase = 0#4 → s.closed = false → Hits (opcodeOf i) s := fun hp hc =>
    by_contra fun hn => h (.inl ⟨opcodeOf i, opcodeOf_mem_commandRows hi, hp, hc, hn⟩)
  rw [exec_command i hi, exec_command i hi, command_setLineFault b hmiss]
  rfl

/-- A hold phase that has not ended waits, whatever the pin says (R84). -/
theorem exec_hold_setLineFault {d : Nat} (hrow : (i, d) ∈ holdRows) (h : ¬ s.tEnter + d ≤ s.now) :
    exec i (setLineFault b s) = onNext (setLineFault b) (exec i s) := by
  have hlt : s.now < s.tEnter + d := Nat.lt_of_not_le h
  have hwait : exec i s = .next s := holdWaitsForItsDuration s (i, d) hrow hlt
  have hwait' : exec i (setLineFault b s) = .next (setLineFault b s) :=
    holdWaitsForItsDuration (setLineFault b s) (i, d) hrow hlt
  rw [hwait, hwait']
  rfl

/-- A step that issues no line primitive neither looks at the pin nor writes it (R85). -/
theorem exec_setLineFault (h : ¬ IssuesPrimitive i s) :
    exec i (setLineFault b s) = onNext (setLineFault b) (exec i s) := by
  cases i with
  | cap | capF | rdt | rdh | rdb => exact exec_command_setLineFault b rfl h
  | close =>
    exact congrArg Host.Outcome.next
      (apply_ite (setLineFault b) (busy s = true) (overrun s) (setDirection .input { s with closed := true })).symm
  | idle | assemble | commit => rfl
  | stab => exact exec_hold_setLineFault b (d := 250000) (by decide) fun hd => h (.inr (.inl ⟨rfl, hd⟩))
  | wakeLo => exact exec_hold_setLineFault b (d := 20000) (by decide) fun hd => h (.inr (.inr (.inl ⟨rfl, hd⟩)))
  | wakeHi => exact exec_hold_setLineFault b (d := 40) (by decide) fun hd => h (.inr (.inr (.inr (.inl ⟨rfl, hd⟩))))
  | release =>
    exact congrArg Host.Outcome.next
      (apply_ite (setLineFault b) (holdDone tRelease s = true) (enterPoll phAckLo s) s).symm
  | ackLo | ackHi | bitLo | bitHi => exact absurd (by simp [IssuesPrimitive, timerRows]) h
  | respond =>
    show Host.Outcome.next (deliver (setLineFault b s)) = .next (setLineFault b (deliver s))
    rw [deliver, deliver, apply_ite (setLineFault b)]
    rfl

end LineFault

/-- Settles O16: a step with a line primitive is `lineStep` and fails; every other step commutes with the pin. -/
theorem lineFaultReplacesTheStep : Obligations.LineFaultReplacesTheStep :=
  ⟨fun _ _ => exec_of_lineBad, fun _ _ b => exec_setLineFault b⟩

/-! ## Overrun, the closed driver, the illegal opcode -/

/-- A flag that a step can only set stays set. -/
theorem flag_stays {b c : Bool} (hw : c ≠ b → c = true) (hb : b = true) : c = true := by
  by_cases hc : c = b
  · exact hc.trans hb
  · exact hw hc

theorem exec_command_busy (hi : i.isCommand = true) (hp : s.phase ≠ 0#4) : exec i s = .next (overrun s) := by
  rw [exec_command i hi, command, if_pos (busy_eq_true_iff.mpr hp)]

theorem exec_close_busy (hp : s.phase ≠ 0#4) : exec .close s = .next (overrun s) :=
  congrArg Host.Outcome.next (if_pos (busy_eq_true_iff.mpr hp))

/-- CLOSE in IDLE releases the line and looks at no fault (R188). -/
theorem exec_close_idle (hp : s.phase = 0#4) : exec .close s = .next { s with closed := true, lineDir := .input } :=
  congrArg Host.Outcome.next (if_neg (Bool.eq_false_iff.mp (busy_eq_false_iff.mpr hp)))

/-- Settles O13: `step_writeBusy` for the write, the same answer for each instruction, and no writer clears `OVR`. -/
theorem writeWhileBusyOnlySetsOverrun : Obligations.WriteWhileBusyOnlySetsOverrun := by
  refine ⟨fun s v addr hr ha he hp => step_writeBusy hr hp ha he, fun s i hi hp => ?_, fun s t hs ho hn => ?_⟩
  · have hhost : ∀ j ∈ [Instr.cap, .capF, .rdt, .rdh, .rdb, .close], j.isCommand = true ∨ j = .close := by decide
    rcases hhost i hi with hc | rfl
    · exact exec_command_busy hc hp
    · exact exec_close_busy hp
  · obtain ⟨-, -, -, -, -, -, hovr, -⟩ := onlyTheListedWriters s t hs hn
    exact flag_stays (fun hne => (hovr hne).2.1) ho

/-- Settles O14: CLOSE in IDLE and while busy, the first case of `command_idle`, and no writer clears `CLOSED`. -/
theorem closedDriverAnswersUntilReset : Obligations.ClosedDriverAnswersUntilReset := by
  obtain ⟨-, -, -, hclose, -⟩ := stepRunsDecodedInstruction
  refine ⟨fun s => exec_close_idle, hclose, fun s => exec_close_busy, fun s r hr hp hc => ?_, fun s t hs hc hn => ?_⟩
  · rw [exec_commandRow hr, command_idle hp, if_pos hc]
  · obtain ⟨-, -, -, -, -, hclosed, -⟩ := onlyTheListedWriters s t hs hn
    exact flag_stays (fun hne => (hclosed hne).2.1) hc

/-- Settles O15: the first case of the acceptance chain, before `CLOSED` is looked at. -/
theorem illegalOpcodeCompletesAtOnce : Obligations.IllegalOpcodeCompletesAtOnce := by
  intro s v hr he hp hop
  rw [cmdWriteInIdleIsAccepted s v hr he hp, if_pos hop]

/-! ## A failure from the cache -/

/-- Settles O30: the hit changes `CMDL`, `HIT` and `PHASE` only, so RESPOND delivers the attempt as it stands in `CR`. -/
theorem cachedFailureIsReportedAgain : Obligations.CachedFailureIsReportedAgain := by
  intro s r hr hp hc hh hok
  have hrespond := exec_respond_of_failed (s := hitAccepted r.2 s) hok
  exact ⟨hitAccepted r.2 s, _, cacheHitAnswersAtAcceptance s r hr hp hc hh, hrespond, rfl,
    resultCode_resultOfFail s.cr.fkind, rfl, rfl, rfl, rfl, rfl, rfl, rfl, rfl⟩

/-! ## Nothing stops the machine -/

/-- A strap that is not the reserved one is a variant (R26, R67). -/
theorem exists_variantOfCode {strap : BitVec 2} (h : strap ≠ 3#2) : ∃ v, variantOfCode strap = some v := by
  have codes : ∀ c : BitVec 2, c ≠ 3#2 → (variantOfCode c).isSome = true := by decide
  exact Option.isSome_iff_exists.mp (codes strap h)

/-- An event that exists and runs no instruction is answered. -/
theorem applyEvent_next_of_wf (h : e.wf = true) (s : State) : ∃ t, applyEvent e s = .next t := by
  cases e with
  | engine | tick | line | fault | release => exact ⟨_, rfl⟩
  | host a =>
    cases a with
    | read size addr => exact ⟨_, if_pos h⟩
    | write size addr v => exact ⟨_, if_pos h⟩
  | reset strap =>
    obtain ⟨v, hv⟩ := exists_variantOfCode (bne_iff_ne.mp h)
    exact ⟨resetBlock v s, by simp only [applyEvent, resetEvent, hv]⟩

/-- The places an instruction comes from: the phase, and the words written to `CMD` and `CTRL` (R60). -/
theorem issuedWord_cases (e : Event) (s : State) :
    e = .engine ∨ (∃ v, e = .host (.write .word cmdOffset v)) ∨ (∃ v, e = .host (.write .word ctrlOffset v)) ∨
      issuedWord e s = none := by
  cases e with
  | engine => exact .inl rfl
  | host a =>
    cases a with
    | read size addr => exact .inr (.inr (.inr rfl))
    | write size addr v =>
      cases size with
      | byte | half => exact .inr (.inr (.inr rfl))
      | word =>
        by_cases h0 : addr = cmdOffset
        · exact .inr (.inl ⟨v, by rw [h0]⟩)
        · by_cases h8 : addr = ctrlOffset
          · exact .inr (.inr (.inl ⟨v, by rw [h8]⟩))
          · exact .inr (.inr (.inr (by simp only [issuedWord, writtenWord, if_neg h0, if_neg h8])))
  | _ => exact .inr (.inr (.inr rfl))

/-- In a state of a run every event that exists is answered (R191, R192). -/
theorem RunInv.runEvent_next (h : RunInv s) (he : e.wf = true) : ∃ t, runEvent e s = .next t := by
  have quiet : fetch e s = none → ∃ t, runEvent e s = .next t := fun hf =>
    runEvent_of_fetch_eq_none hf ▸ applyEvent_next_of_wf he s
  cases hr : s.rst with
  | true => exact quiet (fetch_held hr e)
  | false =>
    rcases issuedWord_cases e s with rfl | ⟨v, rfl⟩ | ⟨v, rfl⟩ | hn
    · obtain ⟨t, ht, -⟩ := h.engine_step hr
      exact ⟨t, ht⟩
    · exact ⟨_, runEvent_writeCmd v hr⟩
    · exact ⟨_, runEvent_writeCtrl v hr⟩
    · exact quiet (fetch_eq_none_of_issuedWord hn)

theorem RunInv.eventTaken (h : RunInv s) : RunInv (after s) := by
  obtain ⟨es, n, hs⟩ := after_frame s
  rw [hs]
  exact h.taken es n

/-- Settles O48: taking the event keeps the invariant, under which `RunInv.runEvent_next` answers. -/
theorem legalEventsNeverStop : Obligations.LegalEventsNeverStop :=
  fun _ hinv hlegal => hinv.eventTaken.runEvent_next hlegal

end Sys2Proof.Machine

/-! SUPPORT. After a reset (70_reset_and_hazards.md R213): what a reset leaves in `CR` is no attempt's reading, so the
throttle has nothing to answer from. -/

namespace Sys2Proof.Machine

open Sys2Proof.Stated

/-- A reset step leaves `CR` without an attempt's time stamp (R39, R210). -/
theorem cr_tsv_of_step_reset {s t : State} {strap : BitVec 2} (he : event s = .reset strap) (hs : step s = .next t) :
    t.cr.tsv = false := by
  rw [step_reset he] at hs
  obtain ⟨v, rfl⟩ := resetEvent_next hs
  rfl

/-- Settles O12: the reading is stale, so no command hits, forced or not. -/
theorem firstCommandAfterResetTransacts : Obligations.FirstCommandAfterResetTransacts := by
  intro s t strap he hs u r hr hcr hp hc hl
  have hstale : u.cr.tsv = false := hcr ▸ cr_tsv_of_step_reset he hs
  exact freshCommandStartsTransaction u r hr hp hc hl (.inr (.inl hstale))

end Sys2Proof.Machine
